-- ==== Sys2Proof/Word.lean ====
section
/-! DEFINITION. The value types of the engine: bytes, 16-bit operands and results, 32-bit host
registers, the 42-bit host access, and the logic level of a line (00_scope.md R7, R10). -/

namespace Sys2Proof

/-- A byte: sent and received data, key codes, opcodes, `KEYLEN`. -/
abbrev Byte := BitVec 8

/-- A 16-bit operand or result (`ARG0`, `ARG1`, `RES0`, `RES1`; 10_state.md R24). -/
abbrev Half := BitVec 16

/-- A host register access is 32 bits wide (`REG_WIDTH`, 00_scope.md R6). -/
abbrev Word := BitVec 32

/-- An 11-bit receive frame (30_encoding.md R65). -/
abbrev FrameWord := BitVec 11

/-- One host access, format H (30_encoding.md R60): bit 41 `we`, bit 40 `re`, bits 39 to 32 `idx`,
bits 31 to 0 `wdata`. -/
abbrev AccessWord := BitVec 42

/-- The logic level of a line (00_scope.md R7, R10). -/
inductive Level where
  | low
  | high
  deriving DecidableEq, Repr, Inhabited

/-- A level as a bit: `High = 1`, `Low = 0` (00_scope.md R7). -/
def Level.bit : Level → Bool
  | .low => false
  | .high => true

/-- The level that stands for a bit. -/
def Level.ofBit (b : Bool) : Level := if b then .high else .low

end Sys2Proof
end

