-- ==== Sys2Proof/Config.lean ====
section
/-! DEFINITION. The parameters of the engine (00_scope.md R6), and the free values: opaque constants
without a body, for what the spec leaves unspecified. -/

namespace Sys2Proof.Config

/-- `CODE_ACK`, the acknowledgment byte: the one command code the source gives (00_scope.md R6,
30_encoding.md R72). -/
def codeAck : Byte := 0xFA

/-- `ERR_SENTINEL`, the result register of a failed receive (00_scope.md R6, 30_encoding.md R75). -/
def errSentinel : Half := 0

/-- `RTS_MIN_US` (00_scope.md R6, 70_reset_and_hazards.md R184). -/
def rtsMinUs : Nat := 100

/-- `DELAY_TABLE`, milliseconds, index 0 first (30_encoding.md R69). -/
def delayTable : List Half := [250, 500, 750, 1000]

/-- A 2×2 selector table (30_encoding.md R71); `ib1it0` is the entry for `ignore_break = 1`,
`ignore_typematic = 0`. -/
structure SelectorTable where
  ib0it0 : Byte
  ib0it1 : Byte
  ib1it0 : Byte
  ib1it1 : Byte
  deriving DecidableEq, Repr

/-- The entry `[ib][it]` of a selector table. -/
def SelectorTable.get (t : SelectorTable) (ib it : Bool) : Byte :=
  match ib, it with
  | false, false => t.ib0it0
  | false, true => t.ib0it1
  | true, false => t.ib1it0
  | true, true => t.ib1it1

/-- The parameters of 00_scope.md R6 that an implementation or its user fixes. The spec says a model
takes the OPEN ones as arguments: a statement about every state is about every value of them. -/
structure Params where
  /-- `TICKS_PER_US`, a positive integer. -/
  ticksPerUs : Nat
  /-- `RTS_HOLD_US`: any value not below `RTS_MIN_US` is conforming. -/
  rtsHoldUs : Nat
  /-- `KEYBUF_DEPTH`, 1 to 255. -/
  keybufDepth : Nat
  codeEcho : Byte
  codeReset : Byte
  codeResend : Byte
  codeSetDefault : Byte
  codeDisable : Byte
  codeEnable : Byte
  codeSetRate : Byte
  codeScanSet : Byte
  codeSetLeds : Byte
  /-- `KEYSEL_ALL[ib][it]`. -/
  keyselAll : SelectorTable
  /-- `KEYSEL_ONE[ib][it]`. -/
  keyselOne : SelectorTable
  /-- `RATE_TABLE[0..31]`. -/
  rateTable : List Half
  /-- `LED_PACK`, an open function of three bits: entry `num + 2 * caps + 4 * scroll` is
  `LED_PACK(num, caps, scroll)` (30_encoding.md R70). -/
  ledPack : List Byte
  deriving DecidableEq, Repr

/-- Free value: `KEYSEL_ONE[0][0]`, the one selector for which the spec knows no default
(30_encoding.md R71, 93 U22; log entry 6). -/
opaque keyselOneKeepAll : Byte

/-- Free value: entry `j` of `KEYBUF` as drawn by the reset at tick `n` (10_state.md R34, 93 U12; log
entry 7). -/
opaque freeKeybuf : Nat → Nat → Byte

/-- Free value: the level of the clock pin at tick `n`, where the inputs held in State say nothing
(10_state.md R21; log entry 2). -/
opaque freeClk : Nat → Level

/-- Free value: the level of the data pin at tick `n`, where the inputs held in State say nothing
(10_state.md R21; log entry 2). -/
opaque freeData : Nat → Level

/-- The default values of 00_scope.md R6. `RTS_HOLD_US`, `RATE_TABLE[0]`, `RATE_TABLE[31]` are the
source's; `KEYBUF_DEPTH` is the spec's decision; the codes, the selectors, the inner rates and the
LED packing are what the spec marks as general knowledge (PRESUMED, log entry 4); `TICKS_PER_US` has
no default in the spec (DESIGN CHOICE, log entry 5). -/
def Params.default : Params where
  ticksPerUs := 1
  rtsHoldUs := 120
  keybufDepth := 16
  codeEcho := 0xEE
  codeReset := 0xFF
  codeResend := 0xFE
  codeSetDefault := 0xF6
  codeDisable := 0xF5
  codeEnable := 0xF4
  codeSetRate := 0xF3
  codeScanSet := 0xF0
  codeSetLeds := 0xED
  keyselAll := { ib0it0 := 0xFA, ib0it1 := 0xF8, ib1it0 := 0xF7, ib1it1 := 0xF9 }
  keyselOne := { ib0it0 := keyselOneKeepAll, ib0it1 := 0xFC, ib1it0 := 0xFB, ib1it1 := 0xFD }
  rateTable := [300, 267, 240, 218, 207, 185, 171, 160] ++ [150, 133, 120, 109, 100, 92, 86, 80]
    ++ [75, 67, 60, 55, 50, 46, 43, 40] ++ [37, 33, 30, 27, 25, 23, 21, 20]
  ledPack := [0, 2, 4, 6, 1, 3, 5, 7]

end Sys2Proof.Config
end

