-- ==== Sys2Proof/Syntax.lean ====
section
/-! DEFINITION. The sixteen operations of 30_encoding.md R62, one constructor per row of
spec/opcode_table.json. The other operands stand in host registers (R63); the access itself carries
the read strobe `re` of a write (20_memory.md R41: the write is performed and the read returns the
value before the write), and SETFLAGS the three flags. -/

namespace Sys2Proof

/-- An operation, as the host issues it. -/
inductive Instr where
  /-- 41_link.md R108. -/
  | init (re : Bool)
  /-- 41_link.md R109. -/
  | recv (re : Bool)
  /-- 41_link.md R115. -/
  | send (re : Bool)
  /-- 41_link.md R106. -/
  | setflags (re : Bool) (start stop parity : Bool)
  /-- 41_link.md R107. -/
  | getflags
  /-- 42_commands.md R133. -/
  | kenable (re : Bool)
  /-- 42_commands.md R134. -/
  | kdisable (re : Bool)
  /-- 42_commands.md R135. -/
  | kdefault (re : Bool)
  /-- 42_commands.md R136. -/
  | kreset (re : Bool)
  /-- 42_commands.md R137. -/
  | kresend (re : Bool)
  /-- 42_commands.md R138. -/
  | kecho (re : Bool)
  /-- 42_commands.md R139. -/
  | kleds (re : Bool)
  /-- 42_commands.md R140. -/
  | kscanset (re : Bool)
  /-- 42_commands.md R141. -/
  | krate (re : Bool)
  /-- 42_commands.md R144. -/
  | kkeys (re : Bool)
  /-- 42_commands.md R145. -/
  | kallkeys (re : Bool)
  deriving DecidableEq, Repr

end Sys2Proof
end

