-- ==== Sys2Proof/WellFormed.lean ====
section
/-! DEFINITION. Well-formedness. Every operand of every operation admits every value (30_encoding.md
R64(c), R76), so an operation is never ill-formed by itself; what can be ill-formed is the
configuration the engine is built with (00_scope.md R6, 30_encoding.md R69). -/

namespace Sys2Proof

/-- Every term of `Instr` is an operation the host can issue: the read strobe and the three flags are
single bits and no combination is reserved (30_encoding.md R64, R76). -/
def Instr.wf : Instr → Bool
  | .init _ | .recv _ | .send _ | .setflags _ _ _ _ | .getflags => true
  | .kenable _ | .kdisable _ | .kdefault _ | .kreset _ | .kresend _ | .kecho _ => true
  | .kleds _ | .kscanset _ | .krate _ | .kkeys _ | .kallkeys _ => true

namespace Config

/-- A list of unsigned numbers is strictly decreasing. -/
def strictlyDecreasing : List Half → Bool
  | a :: b :: rest => decide (b.toNat < a.toNat) && strictlyDecreasing (b :: rest)
  | _ => true

/-- `TICKS_PER_US` is positive (00_scope.md R6). -/
def Params.ticksOk (p : Params) : Bool := decide (0 < p.ticksPerUs)

/-- The hold is never below `RTS_MIN_US` (70_reset_and_hazards.md R184). -/
def Params.holdOk (p : Params) : Bool := decide (rtsMinUs ≤ p.rtsHoldUs)

/-- `KEYBUF_DEPTH` is 1 to 255 (00_scope.md R6). -/
def Params.depthOk (p : Params) : Bool := decide (1 ≤ p.keybufDepth) && decide (p.keybufDepth ≤ 255)

/-- `RATE_TABLE` has 32 entries, the first 300, the last 20, strictly decreasing (30_encoding.md
R69). -/
def Params.rateOk (p : Params) : Bool :=
  decide (p.rateTable.length = 32) && decide (p.rateTable[0]? = some 300)
    && decide (p.rateTable[31]? = some 20) && strictlyDecreasing p.rateTable

/-- `LED_PACK` has a byte for each of the eight operand values. -/
def Params.ledOk (p : Params) : Bool := decide (p.ledPack.length = 8)

/-- A conforming configuration. -/
def Params.wf (p : Params) : Bool := p.ticksOk && p.holdOk && p.depthOk && p.rateOk && p.ledOk

end Config
end Sys2Proof
end

