-- ==== Sys2Proof/Decode.lean ====
section
/-! DEFINITION. Decoding of the 42-bit host access (30_encoding.md R60 to R62, R64) and its encoder.
The decoder is total: an access that is no row of the opcode table is answered by name
(`OtherAccess`), and the step gives each of those the effect the spec gives it. -/

namespace Sys2Proof

/-- The fourteen operations that a write of `CMD` issues (format C, 30_encoding.md R61, R62). -/
inductive CmdOp where
  | init | recv | send
  | kenable | kdisable | kdefault | kreset | kresend | kecho
  | kleds | kscanset | krate | kkeys | kallkeys
  deriving DecidableEq, Repr

/-- The opcode `OPC` of an operation (30_encoding.md R62). -/
def CmdOp.code : CmdOp → Byte
  | .init => 0x01
  | .recv => 0x02
  | .send => 0x03
  | .kenable => 0x10
  | .kdisable => 0x11
  | .kdefault => 0x12
  | .kreset => 0x13
  | .kresend => 0x14
  | .kecho => 0x15
  | .kleds => 0x16
  | .kscanset => 0x17
  | .krate => 0x18
  | .kkeys => 0x19
  | .kallkeys => 0x1A

/-- All format-C operations, in the order of 30_encoding.md R62. -/
def CmdOp.all : List CmdOp :=
  [.init, .recv, .send, .kenable, .kdisable, .kdefault, .kreset, .kresend, .kecho,
   .kleds, .kscanset, .krate, .kkeys, .kallkeys]

/-- The operation an opcode names; none for a reserved opcode (30_encoding.md R64(a)). -/
def CmdOp.ofCode? (opc : Byte) : Option CmdOp := CmdOp.all.find? (fun op => op.code == opc)

/-- The operation as the host issues it, with the read strobe of the access. -/
def CmdOp.instr (op : CmdOp) (re : Bool) : Instr :=
  match op with
  | .init => .init re
  | .recv => .recv re
  | .send => .send re
  | .kenable => .kenable re
  | .kdisable => .kdisable re
  | .kdefault => .kdefault re
  | .kreset => .kreset re
  | .kresend => .kresend re
  | .kecho => .kecho re
  | .kleds => .kleds re
  | .kscanset => .kscanset re
  | .krate => .krate re
  | .kkeys => .kkeys re
  | .kallkeys => .kallkeys re

/-- The host accesses that are no row of the opcode table. -/
inductive OtherAccess where
  /-- `we = 0` and `re = 0` is no access (30_encoding.md R60). -/
  | noAccess
  /-- A read of a register other than `VFLAGS` (20_memory.md R45). -/
  | readReg (idx : BitVec 8)
  /-- A write of a register other than `CMD` and `VFLAGS`, with the read strobe (20_memory.md R41,
  R45). -/
  | writeReg (re : Bool) (idx : BitVec 8) (wdata : Word)
  /-- A format-C write with a reserved opcode (30_encoding.md R64(a)). -/
  | illegalOpcode (re : Bool) (opc : Byte)
  deriving DecidableEq, Repr

namespace Access

/-- `h_we`, bit 41. -/
def we (a : AccessWord) : Bool := a.getLsbD 41

/-- `h_re`, bit 40. -/
def re (a : AccessWord) : Bool := a.getLsbD 40

/-- `h_idx`, bits 39 to 32. -/
def idx (a : AccessWord) : BitVec 8 := a.extractLsb' 32 8

/-- `h_wdata`, bits 31 to 0. -/
def wdata (a : AccessWord) : Word := a.extractLsb' 0 32

/-- `OPC`, bits 7 to 0 of the write data (30_encoding.md R61). -/
def opc (a : AccessWord) : Byte := a.extractLsb' 0 8

/-- An access from its fields (30_encoding.md R60). -/
def make (we re : Bool) (idx : BitVec 8) (wdata : Word) : AccessWord :=
  BitVec.ofBool we ++ BitVec.ofBool re ++ idx ++ wdata

end Access

/-- The register number of `CMD` (20_memory.md R45). -/
def idxCmd : BitVec 8 := 0

/-- The register number of `VFLAGS` (20_memory.md R45). -/
def idxVflags : BitVec 8 := 2

/-- The decoder. An access with both strobes on register 2 is the write with its read (20_memory.md
R41; log entry 10). -/
def decode (a : AccessWord) : Except OtherAccess Instr :=
  if Access.we a then
    if Access.idx a = idxCmd then
      match CmdOp.ofCode? (Access.opc a) with
      | some op => .ok (op.instr (Access.re a))
      | none => .error (.illegalOpcode (Access.re a) (Access.opc a))
    else if Access.idx a = idxVflags then
      .ok (.setflags (Access.re a) (a.getLsbD 0) (a.getLsbD 1) (a.getLsbD 2))
    else .error (.writeReg (Access.re a) (Access.idx a) (Access.wdata a))
  else if Access.re a then
    if Access.idx a = idxVflags then .ok .getflags else .error (.readReg (Access.idx a))
  else .error .noAccess

/-- The format-C access of an operation, its ignored bits zero (30_encoding.md R61). -/
def encodeCmd (re : Bool) (op : CmdOp) : AccessWord :=
  Access.make true re idxCmd (op.code.setWidth 32)

/-- The encoder, from the rows of 30_encoding.md R62: bits that take no part in decoding are zero. -/
def encode : Instr → AccessWord
  | .init re => encodeCmd re .init
  | .recv re => encodeCmd re .recv
  | .send re => encodeCmd re .send
  | .setflags re start stop parity =>
    Access.make true re idxVflags
      (BitVec.setWidth 32 (BitVec.ofBool parity ++ BitVec.ofBool stop ++ BitVec.ofBool start))
  | .getflags => Access.make false true idxVflags 0
  | .kenable re => encodeCmd re .kenable
  | .kdisable re => encodeCmd re .kdisable
  | .kdefault re => encodeCmd re .kdefault
  | .kreset re => encodeCmd re .kreset
  | .kresend re => encodeCmd re .kresend
  | .kecho re => encodeCmd re .kecho
  | .kleds re => encodeCmd re .kleds
  | .kscanset re => encodeCmd re .kscanset
  | .krate re => encodeCmd re .krate
  | .kkeys re => encodeCmd re .kkeys
  | .kallkeys re => encodeCmd re .kallkeys

/-- The instruction the decoder reads from an access whose bits are `w`, numbered as
spec/opcode_table.json numbers them: bit `i` of `w` is bit `i` of the access (30_encoding.md R60).
An access has 42 bits, so a number with a higher bit set is none. -/
def decodeTableWord (nbits w : Nat) : Option Instr :=
  let v := w % 2 ^ nbits
  if v < 2 ^ 42 then
    match decode (BitVec.ofNat 42 v) with
    | .ok i => some i
    | .error _ => none
  else none

end Sys2Proof
end

