-- ==== Sys2Proof/Machine/State.lean ====
section
/-! DEFINITION. The state of the engine (10_state.md), its input ports, the reasons a step can stop,
and the state after reset (10_state.md R34). -/

namespace Sys2Proof.Machine

/-- The link phase `LPH`; it names the micro-step that is next to be performed (10_state.md R28,
41_link.md R111, R118). -/
inductive LinkPhase where
  | idle
  | rxLow
  | rxHigh
  | txHold
  | txRtsData
  | txRtsRel
  | txLow
  | txHigh
  deriving DecidableEq, Repr

/-- The sequencer state `CSTATE` (10_state.md R29). -/
inductive SeqState where
  | idle
  | link
  | sendCmd
  | awaitFirstAck
  | sendParam
  | sendItem
  | awaitItemAck
  | sendTerm
  | awaitResp
  deriving DecidableEq, Repr

/-- The error of the last completed operation, `STATUS.ERR`; codes 5 to 7 are never produced
(60_exceptions.md R160, 93 U11). -/
inductive ErrCode where
  | noError
  | framingViolation
  | protocolAbort
  | invalidArgument
  | illegalOperation
  deriving DecidableEq, Repr

/-- The fields of `STATUS` (10_state.md R26); the register as a word is `Status.toWord`. -/
structure Status where
  busy : Bool
  done : Bool
  err : ErrCode
  ackfv : Bool
  astep : Byte
  deriving DecidableEq, Repr

/-- `STATUS = 0`. -/
def Status.clear : Status :=
  { busy := false, done := false, err := .noError, ackfv := false, astep := 0 }

/-- What the environment does to the two lines in a tick. `wired`: the device's drivers
(`high` = released) on the open-collector wiring of 10_state.md R21; `pins`: the levels of the two
input pins themselves, free of any wiring, which R21 allows as well (log entry 3). -/
inductive Lines where
  | wired (devClk devData : Level)
  | pins (clk data : Level)
  deriving DecidableEq, Repr

/-- The levels of the two input pins at a micro-step: `level(CLK)`, `level(DATA)`. -/
structure Pins where
  clk : Level
  data : Level
  deriving DecidableEq, Repr

/-- The input ports in one tick of `clk` (10_state.md R20): `rst`, the host access (`h_we`, `h_re`,
`h_idx`, `h_wdata` as the 42-bit word of 30_encoding.md R60) and the lines. -/
structure Input where
  rst : Bool
  access : AccessWord
  lines : Lines
  deriving DecidableEq, Repr

/-- The whole state. Field by field: the output latches and `VFLAGS` (10_state.md R22, R23), the host
registers (R24 to R26), the hidden link state (R28), the hidden sequencer state (R29), the host
read-data port (R20), then what is not the engine's: the inputs of the ticks to come, the model's own
tick counter, and the configuration (00_scope.md R6), which no step writes. -/
structure State where
  clkPd : Bool
  dataPd : Bool
  vflags : BitVec 3
  status : Status
  arg0 : Half
  arg1 : Half
  res0 : Half
  res1 : Half
  keylen : Byte
  keybuf : List Byte
  lph : LinkPhase
  biti : BitVec 4
  shift : FrameWord
  txbyte : Byte
  hold : Nat
  op : Byte
  cstate : SeqState
  kidx : Byte
  rdata : Option Word
  inputs : List Input
  ticks : Nat
  cfg : Config.Params
  deriving DecidableEq, Repr

/-- The machine stops with no fault: every error of the engine is reported in `STATUS` and is a next
state (60_exceptions.md R161, R167, R169; log entry 14). So there is no constructor, and no step can
raise one. -/
inductive Fault where
  deriving DecidableEq, Repr

/-- Why a step gives no meaning. -/
inductive Refusal where
  /-- Raised by an arm of `exec` whose instruction has no meaning yet. Safe: the run stops. No arm
  does so now. -/
  | notModelled (mnemonic : String)
  deriving DecidableEq, Repr

/-- The reset values of 10_state.md R34 for a given configuration. `KEYBUF` is unspecified there: each
byte is drawn (log entry 7). The inputs to come and the tick counter are not the engine's. -/
def State.resetWith (cfg : Config.Params) (inputs : List Input) (ticks : Nat) : State where
  clkPd := false
  dataPd := false
  vflags := 7
  status := Status.clear
  arg0 := 0
  arg1 := 0
  res0 := 0
  res1 := 0
  keylen := 0
  keybuf := (List.range cfg.keybufDepth).map (Config.freeKeybuf ticks)
  lph := .idle
  biti := 0
  shift := 0
  txbyte := 0
  hold := 0
  op := 0
  cstate := .idle
  kidx := 0
  rdata := none
  inputs := inputs
  ticks := ticks
  cfg := cfg

/-- The machine right after reset, with the default parameters and no input given yet. -/
def State.reset : State := State.resetWith Config.Params.default [] 0

end Sys2Proof.Machine
end

