-- ==== Sys2Proof/Machine/Codec.lean ====
section
/-! DEFINITION. The bit-frame codec (40_codec.md): pure functions, called by the link layer only. -/

namespace Sys2Proof.Machine

/-- The number of 1 bits of a byte. -/
def popcount (d : Byte) : Nat := ((List.range 8).filter (fun i => d.getLsbD i)).length

/-- `compute_parity`, odd parity: 1 iff the number of 1 bits is even (40_codec.md R80). -/
def computeParity (d : Byte) : Bool := decide (popcount d % 2 = 0)

/-- `rx_data`, the eight data bits of a receive frame (40_codec.md R83). -/
def rxData (w : FrameWord) : Byte := w.extractLsb' 1 8

/-- `validate_parity`: true when the parity is good (40_codec.md R81). -/
def validateParity (w : FrameWord) : Bool := computeParity (rxData w) == w.getLsbD 9

/-- `VFLAGS.VSTART` (10_state.md R23). -/
def vstart (f : BitVec 3) : Bool := f.getLsbD 0

/-- `VFLAGS.VSTOP` (10_state.md R23). -/
def vstop (f : BitVec 3) : Bool := f.getLsbD 1

/-- `VFLAGS.VPARITY` (10_state.md R23). -/
def vparity (f : BitVec 3) : Bool := f.getLsbD 2

/-- `rx_check`: every enabled check passes (40_codec.md R84). -/
def rxCheck (f : BitVec 3) (w : FrameWord) : Bool :=
  (!vstart f || !w.getLsbD 0) && (!vstop f || w.getLsbD 10) && (!vparity f || validateParity w)

/-- `SHIFT[i] <- b` (41_link.md R110). -/
def setFrameBit (w : FrameWord) (i : Nat) (b : Bool) : FrameWord :=
  (w &&& ~~~BitVec.twoPow 11 i) ||| (if b then BitVec.twoPow 11 i else 0)

/-- `rx_assemble`: sample `i` becomes bit `i` (40_codec.md R82). -/
def rxAssemble (samples : Nat → Bool) : FrameWord :=
  (List.range 11).foldl (fun w i => setFrameBit w i (samples i)) 0

/-- `tx_bit`: the bit the host drives in send period `k`; not defined outside 1 to 10 (40_codec.md
R85). -/
def txBit (d : Byte) (k : Nat) : Option Bool :=
  if 1 ≤ k ∧ k ≤ 8 then some (d.getLsbD (k - 1))
  else if k = 9 then some (computeParity d)
  else if k = 10 then some true
  else none

/-- `tx_wire`: the eleven bits the host puts on the data line, the start bit of the request-to-send
first (40_codec.md R86). -/
def txWire (d : Byte) (k : Nat) : Bool := (txBit d k).getD false

/-- The valid frame that carries `d` (30_encoding.md R65). -/
def validFrame (d : Byte) : FrameWord :=
  BitVec.ofBool true ++ BitVec.ofBool (computeParity d) ++ d ++ BitVec.ofBool false

end Sys2Proof.Machine
end

