-- ==== Sys2Proof/Machine/Flags.lean ====
section
/-! DEFINITION. The status word (10_state.md R26). The engine has no other flags than `STATUS` and
`VFLAGS` (10_state.md R33). -/

namespace Sys2Proof.Machine

/-- The error codes of 60_exceptions.md R160. -/
def ErrCode.code : ErrCode → BitVec 3
  | .noError => 0
  | .framingViolation => 1
  | .protocolAbort => 2
  | .invalidArgument => 3
  | .illegalOperation => 4

/-- `STATUS` as the host reads it: [15:8] ASTEP, [5] ACKFV, [4:2] ERR, [1] DONE, [0] BUSY, all other
bits 0 (10_state.md R26). -/
def Status.toWord (st : Status) : Word :=
  (0 : BitVec 16) ++ st.astep ++ (0 : BitVec 2) ++ BitVec.ofBool st.ackfv ++ st.err.code
    ++ BitVec.ofBool st.done ++ BitVec.ofBool st.busy

end Sys2Proof.Machine
end

