-- ==== Sys2Proof/Machine/Operands.lean ====
section
/-! DEFINITION. Where each operation takes its operands (30_encoding.md R63), the register map the host
sees (20_memory.md R45), and the bytes computed from operands (30_encoding.md R68 to R73, 42_commands.md
R142). -/

namespace Sys2Proof.Machine

/-- The key-code buffer: entry `j` at position `j`, one byte for every entry that exists, so equal
buffers are equal data (10_state.md R25). -/
abbrev Memory := List Byte

/-- The buffer has exactly `KEYBUF_DEPTH` entries. -/
abbrev Memory.wf (depth : Nat) (m : Memory) : Prop := m.length = depth

/-- `MemRead(j, 1)` (20_memory.md R53); a number past the buffer is reserved and reads 0 (R45). -/
def Memory.read (m : Memory) (j : Nat) : Byte := m[j]?.getD 0

/-- `MemWrite(j, 1, v)`; a number past the buffer is reserved and ignores writes (20_memory.md R45). -/
def Memory.write (m : Memory) (j : Nat) (v : Byte) : Memory := m.set j v

/-- What a host register number names (20_memory.md R45). -/
inductive HostReg where
  | cmd | status | vflags | arg0 | arg1 | res0 | res1 | keylen
  | keybuf (j : Nat)
  | reserved
  deriving DecidableEq, Repr

/-- The register map (20_memory.md R45). -/
def HostReg.ofIdx (depth : Nat) (idx : BitVec 8) : HostReg :=
  if idx = 0 then .cmd
  else if idx = 1 then .status
  else if idx = 2 then .vflags
  else if idx = 3 then .arg0
  else if idx = 4 then .arg1
  else if idx = 5 then .res0
  else if idx = 6 then .res1
  else if idx = 7 then .keylen
  else if 64 ≤ idx.toNat ∧ idx.toNat < 64 + depth then .keybuf (idx.toNat - 64)
  else .reserved

/-- The value of a host register: bits not listed read 0, `CMD` and reserved numbers read 0
(20_memory.md R45). -/
def regValue (s : State) : HostReg → Word
  | .cmd => 0
  | .status => s.status.toWord
  | .vflags => s.vflags.setWidth 32
  | .arg0 => s.arg0.setWidth 32
  | .arg1 => s.arg1.setWidth 32
  | .res0 => s.res0.setWidth 32
  | .res1 => s.res1.setWidth 32
  | .keylen => s.keylen.setWidth 32
  | .keybuf j => (Memory.read s.keybuf j).setWidth 32
  | .reserved => 0

/-- `HostRead(idx)` (20_memory.md R41). -/
def hostRead (s : State) (idx : BitVec 8) : Word := regValue s (.ofIdx s.cfg.keybufDepth idx)

/-- The byte of SEND: `ARG0[7:0]`. -/
def sendByte (s : State) : Byte := s.arg0.setWidth 8

/-- `LED_PACK(ARG0[0], ARG0[1], ARG0[2])` (30_encoding.md R70, 42_commands.md R139). -/
def ledByte (s : State) : Byte := s.cfg.ledPack[(s.arg0.extractLsb' 0 3).toNat]?.getD 0

/-- The set number of KSCANSET is 1 to 3, all sixteen bits compared (42_commands.md R140). -/
def scanSetOk (s : State) : Bool := decide (1 ≤ s.arg0.toNat) && decide (s.arg0.toNat ≤ 3)

/-- The parameter byte of KSCANSET: the set number itself (30_encoding.md R73). -/
def scanSetByte (s : State) : Byte := s.arg0.setWidth 8

/-- `ignore_break`, `ARG0[0]` (30_encoding.md R63). -/
def ignoreBreak (s : State) : Bool := s.arg0.getLsbD 0

/-- `ignore_typematic`, `ARG0[1]` (30_encoding.md R63). -/
def ignoreTypematic (s : State) : Bool := s.arg0.getLsbD 1

/-- The selector byte of KKEYS (30_encoding.md R71). -/
def selectorOne (s : State) : Byte := s.cfg.keyselOne.get (ignoreBreak s) (ignoreTypematic s)

/-- The selector byte of KALLKEYS (30_encoding.md R71). -/
def selectorAll (s : State) : Byte := s.cfg.keyselAll.get (ignoreBreak s) (ignoreTypematic s)

/-- The key list fits the buffer (42_commands.md R144). -/
def keylenOk (s : State) : Bool := decide (s.keylen.toNat ≤ s.cfg.keybufDepth)

/-- `|a - b|`, exact, without wrap-around (40_codec.md R89(c)). -/
def absDiff (a b : Nat) : Nat := max a b - min a b

/-- The scan of `select_closest` from index `i` on, with the best index and entry so far
(42_commands.md R142). -/
def selectClosestFrom (q : Nat) : List Half → Nat → Nat → Nat → Nat
  | [], _, best, _ => best
  | t :: rest, i, best, bestVal =>
    if absDiff t.toNat q < absDiff bestVal q then selectClosestFrom q rest (i + 1) i t.toNat
    else selectClosestFrom q rest (i + 1) best bestVal

/-- `select_closest`: the index of the entry closest to the request, a tie going to the lower index
(42_commands.md R142). -/
def selectClosest (table : List Half) (q : Half) : Nat :=
  match table with
  | [] => 0
  | t :: rest => selectClosestFrom q.toNat rest 1 0 t.toNat

/-- `ri` of KRATE (42_commands.md R141). -/
def rateIndex (s : State) : Nat := selectClosest s.cfg.rateTable s.arg0

/-- `di` of KRATE (42_commands.md R141). -/
def delayIndex (s : State) : Nat := selectClosest Config.delayTable s.arg1

/-- The typematic control byte `rate_index | (delay_index << 5)` (30_encoding.md R68). -/
def controlByte (ri di : Nat) : Byte := BitVec.ofNat 8 ri ||| (BitVec.ofNat 8 di <<< 5)

/-- The chosen rate, `RATE_TABLE[ri]` (42_commands.md R141). -/
def chosenRate (s : State) : Half := s.cfg.rateTable[rateIndex s]?.getD 0

/-- The chosen delay, `DELAY_TABLE[di]` (42_commands.md R141). -/
def chosenDelay (s : State) : Half := Config.delayTable[delayIndex s]?.getD 0

end Sys2Proof.Machine
end

