-- ==== Sys2Proof/Machine/Ops.lean ====
section
/-! DEFINITION. The shared operations over State: input ports and reset, host register access,
acceptance and completion of an operation (41_link.md R101, R102), and the starts of the two link calls
(R111, R118). -/

namespace Sys2Proof.Machine

/-- The input ports of this tick. Where the inputs held in State are used up, the host makes no access,
`rst` is 0 and the levels of the lines are free values (log entry 2). -/
def State.input (s : State) : Input :=
  match s.inputs with
  | i :: _ => i
  | [] => { rst := false, access := 0, lines := .pins (Config.freeClk s.ticks) (Config.freeData s.ticks) }

/-- The tick takes its input; `h_rdata` carries a value only in a tick that reads (10_state.md R20). -/
def State.advance (s : State) : State :=
  { s with inputs := s.inputs.tail, ticks := s.ticks + 1, rdata := none }

/-- `rst = 1`: every piece of state takes its reset value, whatever the engine was doing
(70_reset_and_hazards.md R180, R181). -/
def rstTick (s : State) : State := State.resetWith s.cfg s.inputs s.ticks

/-- The levels of the input pins (10_state.md R21): a wired line is `high` iff the pulldown and the
device have both released it. -/
def pinLevels (s : State) : Lines → Pins
  | .wired devClk devData =>
    { clk := Level.ofBit (!s.clkPd && devClk.bit), data := Level.ofBit (!s.dataPd && devData.bit) }
  | .pins clk data => { clk := clk, data := data }

/-- The read half of an access: with the strobe set, `h_rdata` carries the register's value before any
write of the same tick; reads are performed busy or not, and have no other effect (20_memory.md R41,
R46, R47). -/
def readPort (re : Bool) (idx : BitVec 8) (s : State) : State :=
  if re then { s with rdata := some (hostRead s idx) } else s

/-- The write of a register that stores: the listed bits are kept and the others dropped; read-only and
reserved numbers ignore it (20_memory.md R45, R47). A write of `CMD` is the issue of an operation and is
not done here (10_state.md R27). -/
def storeReg (s : State) (r : HostReg) (v : Word) : State :=
  match r with
  | .vflags => { s with vflags := v.setWidth 3 }
  | .arg0 => { s with arg0 := v.setWidth 16 }
  | .arg1 => { s with arg1 := v.setWidth 16 }
  | .keylen => { s with keylen := v.setWidth 8 }
  | .keybuf j => { s with keybuf := Memory.write s.keybuf j (v.setWidth 8) }
  | .cmd | .status | .res0 | .res1 | .reserved => s

/-- A host write: ignored while an operation is in flight (20_memory.md R46). -/
def hostWrite (s : State) (idx : BitVec 8) (v : Word) : State :=
  if s.status.busy then s else storeReg s (.ofIdx s.cfg.keybufDepth idx) v

/-- Acceptance of the operation `opc`, common part: the last status and results are cleared
(41_link.md R101); this is also all the recovery from an error there is (60_exceptions.md R168). -/
def accept (opc : Byte) (s : State) : State :=
  { s with
    status := { s.status with done := false, err := .noError, ackfv := false, astep := 0 }
    res0 := 0
    res1 := 0
    op := opc }

/-- What `post` reports; every argument defaults to 0 (41_link.md R102). -/
structure Report where
  err : ErrCode := .noError
  res0 : Half := 0
  res1 : Half := 0
  astep : Byte := 0
  ackfv : Bool := false
  deriving DecidableEq, Repr

/-- Completion, `post` (41_link.md R102). With an error it is the entry of the error, `raise`
(60_exceptions.md R167): exactly this state is written. -/
def post (r : Report) (s : State) : State :=
  { s with
    res0 := r.res0
    res1 := r.res1
    status := { busy := false, done := true, err := r.err, ackfv := r.ackfv, astep := r.astep }
    cstate := .idle
    lph := .idle }

/-- The operation is in flight and its first sequencer state is entered (41_link.md R101). -/
def begin (c : SeqState) (s : State) : State :=
  { s with status := { s.status with busy := true }, cstate := c }

/-- `CSTATE <- c` (42_commands.md R146). -/
def enter (c : SeqState) (s : State) : State := { s with cstate := c }

/-- `CLK_PD <- 0; DATA_PD <- 0` (41_link.md R108). -/
def releasePulldowns (s : State) : State := { s with clkPd := false, dataPd := false }

/-- Entry of `link_recv` (41_link.md R111). -/
def startRecv (s : State) : State := { s with shift := 0, biti := 0, lph := .rxLow }

/-- Entry of `link_send(d)` (41_link.md R118): the request-to-send begins by pulling the clock low. -/
def startSend (d : Byte) (s : State) : State :=
  { s with txbyte := d, clkPd := true, hold := s.cfg.rtsHoldUs * s.cfg.ticksPerUs, lph := .txHold }

/-- A write of `CMD` (41_link.md R101): ignored while busy; else the operation is accepted and its own
part of the step, `start`, follows. The read half of the access sees `CMD`, which reads 0. -/
def issue (re : Bool) (opc : Byte) (start : State → State) (s : State) : State :=
  let s := readPort re idxCmd s
  if s.status.busy then s else start (accept opc s)

/-- The effect of the accesses that are no row of the opcode table (20_memory.md R45, R46;
30_encoding.md R60, R64; 60_exceptions.md R165). -/
def otherAccess (a : OtherAccess) (s : State) : State :=
  match a with
  | .noAccess => s
  | .readReg idx => readPort true idx s
  | .writeReg re idx v => hostWrite (readPort re idx s) idx v
  | .illegalOpcode re opc => issue re opc (post { err := .illegalOperation }) s

end Sys2Proof.Machine
end

