-- ==== Sys2Proof/Machine/Link.lean ====
section
/-! DEFINITION. The first operation family: INIT, SETFLAGS, GETFLAGS, RECV, SEND (41_link.md R106 to
R109, R115), and the micro-steps of the two link calls (R111, R118) as far as they stay inside the
call. -/

namespace Sys2Proof.Machine

open Host (Outcome)

/-- INIT (41_link.md R108): both pulldowns are released and the operation is posted in the acceptance
step. -/
def execInit (re : Bool) (s : State) : Outcome State Fault Refusal :=
  .next (issue re CmdOp.init.code (fun s => post {} (releasePulldowns s)) s)

/-- RECV (41_link.md R109): the receive starts. -/
def execRecv (re : Bool) (s : State) : Outcome State Fault Refusal :=
  .next (issue re CmdOp.recv.code (fun s => startRecv (begin .link s)) s)

/-- SEND (41_link.md R115): the send of `ARG0[7:0]` starts. -/
def execSend (re : Bool) (s : State) : Outcome State Fault Refusal :=
  .next (issue re CmdOp.send.code (fun s => startSend (sendByte s) (begin .link s)) s)

/-- SETFLAGS (41_link.md R106): a plain write of `VFLAGS`, `wdata[0]` start, `wdata[1]` stop,
`wdata[2]` parity. -/
def execSetflags (re start stop parity : Bool) (s : State) : Outcome State Fault Refusal :=
  .next (hostWrite (readPort re idxVflags s) idxVflags
    (BitVec.setWidth 32 (BitVec.ofBool parity ++ BitVec.ofBool stop ++ BitVec.ofBool start)))

/-- GETFLAGS (41_link.md R107): a plain read of `VFLAGS`, performed busy or not. -/
def execGetflags (s : State) : Outcome State Fault Refusal :=
  .next (readPort true idxVflags s)

/-- What `link_recv` returns (41_link.md R110). -/
inductive RecvResult where
  | ok (b : Byte)
  | err
  deriving DecidableEq, Repr

/-- The check after the eleventh bit (41_link.md R110). -/
def recvResult (s : State) : RecvResult :=
  if rxCheck s.vflags s.shift then .ok (rxData s.shift) else .err

/-- Phase `RX_LOW` (41_link.md R111): the poll that observes the clock low samples the data pin. -/
def rxLowStep (p : Pins) (s : State) : State :=
  if p.clk = .low then
    { s with shift := setFrameBit s.shift s.biti.toNat p.data.bit, lph := .rxHigh }
  else s

/-- Phase `RX_HIGH` (41_link.md R111); `ret` is the return to the caller after bit 10. -/
def rxHighStep (ret : RecvResult → State → State) (p : Pins) (s : State) : State :=
  if p.clk = .high then
    if s.biti.toNat < 10 then { s with biti := s.biti + 1, lph := .rxLow }
    else if s.biti.toNat = 10 then ret (recvResult s) { s with lph := .idle }
    else s
  else s

/-- Phase `TX_HOLD` (41_link.md R118). -/
def txHoldStep (s : State) : State :=
  if 0 < s.hold then { s with hold := s.hold - 1 } else { s with lph := .txRtsData }

/-- Phase `TX_RTS_DATA` (41_link.md R118): the start bit. -/
def txRtsDataStep (s : State) : State := { s with dataPd := true, lph := .txRtsRel }

/-- Phase `TX_RTS_REL` (41_link.md R118): the clock is released. -/
def txRtsRelStep (s : State) : State := { s with clkPd := false, biti := 1, lph := .txLow }

/-- Phase `TX_LOW` (41_link.md R118): the poll that observes the clock low drives bit `k`, or, in
period 11, reads the acknowledge bit, which is discarded (R119). -/
def txLowStep (p : Pins) (s : State) : State :=
  if p.clk = .low then
    match txBit s.txbyte s.biti.toNat with
    | some b => { s with dataPd := !b, lph := .txHigh }
    | none => if s.biti.toNat = 11 then { s with lph := .txHigh } else s
  else s

/-- Phase `TX_HIGH` (41_link.md R118); `ret` is the return to the caller after period 11. -/
def txHighStep (ret : State → State) (p : Pins) (s : State) : State :=
  if p.clk = .high then
    if s.biti.toNat < 11 then { s with biti := s.biti + 1, lph := .txLow }
    else if s.biti.toNat = 11 then ret { s with lph := .idle }
    else s
  else s

end Sys2Proof.Machine
end

