-- ==== Sys2Proof/Machine/Command.lean ====
section
/-! DEFINITION. The second operation family: the eleven keyboard commands (42_commands.md R133 to
R145), and the sequencing between their link calls (R131, R146, R148). -/

namespace Sys2Proof.Machine

open Host (Outcome)

/-- A command starts by sending its command or selector byte in `C_SEND_CMD` (42_commands.md R146). -/
def sendFirst (d : Byte) (s : State) : State := startSend d (begin .sendCmd s)

/-- KENABLE (42_commands.md R133). -/
def execKenable (re : Bool) (s : State) : Outcome State Fault Refusal :=
  .next (issue re CmdOp.kenable.code (fun s => sendFirst s.cfg.codeEnable s) s)

/-- KDISABLE (42_commands.md R134). -/
def execKdisable (re : Bool) (s : State) : Outcome State Fault Refusal :=
  .next (issue re CmdOp.kdisable.code (fun s => sendFirst s.cfg.codeDisable s) s)

/-- KDEFAULT (42_commands.md R135). -/
def execKdefault (re : Bool) (s : State) : Outcome State Fault Refusal :=
  .next (issue re CmdOp.kdefault.code (fun s => sendFirst s.cfg.codeSetDefault s) s)

/-- KRESET (42_commands.md R136). -/
def execKreset (re : Bool) (s : State) : Outcome State Fault Refusal :=
  .next (issue re CmdOp.kreset.code (fun s => sendFirst s.cfg.codeReset s) s)

/-- KRESEND (42_commands.md R137). -/
def execKresend (re : Bool) (s : State) : Outcome State Fault Refusal :=
  .next (issue re CmdOp.kresend.code (fun s => sendFirst s.cfg.codeResend s) s)

/-- KECHO (42_commands.md R138). -/
def execKecho (re : Bool) (s : State) : Outcome State Fault Refusal :=
  .next (issue re CmdOp.kecho.code (fun s => sendFirst s.cfg.codeEcho s) s)

/-- KLEDS (42_commands.md R139). -/
def execKleds (re : Bool) (s : State) : Outcome State Fault Refusal :=
  .next (issue re CmdOp.kleds.code (fun s => sendFirst s.cfg.codeSetLeds s) s)

/-- KSCANSET (42_commands.md R140): a set number outside 1 to 3 is InvalidArgument, posted in the
acceptance step (60_exceptions.md R164). -/
def execKscanset (re : Bool) (s : State) : Outcome State Fault Refusal :=
  .next (issue re CmdOp.kscanset.code
    (fun s => if scanSetOk s then sendFirst s.cfg.codeScanSet s
      else post { err := .invalidArgument } s) s)

/-- KRATE (42_commands.md R141). -/
def execKrate (re : Bool) (s : State) : Outcome State Fault Refusal :=
  .next (issue re CmdOp.krate.code (fun s => sendFirst s.cfg.codeSetRate s) s)

/-- KKEYS (42_commands.md R144): a list longer than the buffer is InvalidArgument, posted in the
acceptance step (60_exceptions.md R164). -/
def execKkeys (re : Bool) (s : State) : Outcome State Fault Refusal :=
  .next (issue re CmdOp.kkeys.code
    (fun s => if keylenOk s then sendFirst (selectorOne s) s
      else post { err := .invalidArgument } s) s)

/-- KALLKEYS (42_commands.md R145). -/
def execKallkeys (re : Bool) (s : State) : Outcome State Fault Refusal :=
  .next (issue re CmdOp.kallkeys.code (fun s => sendFirst (selectorAll s) s) s)

/-- The report of a receive whose byte is returned unjudged: RECV (41_link.md R109) and
`read_response` (42_commands.md R148). -/
def receiveReport : RecvResult → Report
  | .ok b => { res0 := b.setWidth 16 }
  | .err => { err := .framingViolation, res0 := Config.errSentinel }

/-- `await_ack(step)` once its byte has come (42_commands.md R131): `CODE_ACK` continues the command,
anything else ends it at once with ProtocolAbort (60_exceptions.md R163). -/
def ackCheck (step : Byte) (r : RecvResult) (continue_ : State → State) (s : State) : State :=
  match r with
  | .ok b =>
    if b = Config.codeAck then continue_ s
    else post { err := .protocolAbort, res0 := b.setWidth 16, astep := step, ackfv := false } s
  | .err => post { err := .protocolAbort, res0 := Config.errSentinel, astep := step, ackfv := true } s

/-- The list of KKEYS from item `j` on: the next item is sent, or, after the last, the terminator
(42_commands.md R144). -/
def nextItem (j : Nat) (s : State) : State :=
  if j < s.keylen.toNat then
    startSend (Memory.read s.keybuf j) (enter .sendItem { s with kidx := BitVec.ofNat 8 j })
  else startSend s.cfg.codeEcho (enter .sendTerm s)

/-- What follows the command or selector byte (42_commands.md R146, leaving `C_SEND_CMD`). -/
def afterFirstSend (op : CmdOp) (s : State) : State :=
  match op with
  | .kenable | .kdisable | .kdefault => post {} s
  | .kreset | .kresend | .kecho => startRecv (enter .awaitResp s)
  | .kleds => startSend (ledByte s) (enter .sendParam s)
  | .krate => startSend (controlByte (rateIndex s) (delayIndex s)) (enter .sendParam s)
  | .kscanset | .kkeys | .kallkeys => startRecv (enter .awaitFirstAck s)
  | .init | .recv | .send => s

/-- What follows the first ACK (42_commands.md R146, leaving `C_AWAIT_FIRST_ACK`). -/
def afterFirstAck (op : CmdOp) (s : State) : State :=
  match op with
  | .kscanset => startSend (scanSetByte s) (enter .sendParam s)
  | .kkeys => nextItem 0 s
  | .kallkeys => startSend s.cfg.codeEcho (enter .sendTerm s)
  | .kenable | .kdisable | .kdefault | .kreset | .kresend | .kecho | .kleds | .krate
  | .init | .recv | .send => s

/-- What follows the parameter byte (42_commands.md R146, leaving `C_SEND_PARAM`): KRATE returns the two
values chosen (R141). -/
def afterParam (op : CmdOp) (s : State) : State :=
  match op with
  | .kscanset | .kleds => post {} s
  | .krate => post { res0 := chosenRate s, res1 := chosenDelay s } s
  | .kenable | .kdisable | .kdefault | .kreset | .kresend | .kecho | .kkeys | .kallkeys
  | .init | .recv | .send => s

/-- A sequencing row for the operation in flight, `OP`; an opcode that names no operation has none (log
entry 13). -/
def withOp (row : CmdOp → State → State) (s : State) : State :=
  match CmdOp.ofCode? s.op with
  | some op => row op s
  | none => s

/-- Sequencing after a `link_send` has returned (41_link.md R115, 42_commands.md R146). -/
def afterSend (s : State) : State :=
  match s.cstate with
  | .link => post {} s
  | .sendCmd => withOp afterFirstSend s
  | .sendParam => withOp afterParam s
  | .sendItem => startRecv (enter .awaitItemAck s)
  | .sendTerm => post {} s
  | .idle | .awaitFirstAck | .awaitItemAck | .awaitResp => s

/-- Sequencing after a `link_recv` has returned (41_link.md R109, 42_commands.md R131, R146, R148). -/
def afterRecv (r : RecvResult) (s : State) : State :=
  match s.cstate with
  | .link => post (receiveReport r) s
  | .awaitResp => post (receiveReport r) s
  | .awaitFirstAck => ackCheck 0 r (withOp afterFirstAck) s
  | .awaitItemAck => ackCheck (s.kidx + 1) r (fun s => nextItem (s.kidx.toNat + 1) s) s
  | .idle | .sendCmd | .sendParam | .sendItem | .sendTerm => s

end Sys2Proof.Machine
end

