-- ==== Sys2Proof/Machine/Dispatch.lean ====
section
/-! DEFINITION. One arm per operation of 30_encoding.md R62. -/

namespace Sys2Proof.Machine

def exec (i : Instr) (s : State) : Host.Outcome State Fault Refusal :=
  match i with
  | .init re => Sys2Proof.Machine.execInit re s
  | .recv re => Sys2Proof.Machine.execRecv re s
  | .send re => Sys2Proof.Machine.execSend re s
  | .setflags re start stop parity => Sys2Proof.Machine.execSetflags re start stop parity s
  | .getflags => Sys2Proof.Machine.execGetflags s
  | .kenable re => Sys2Proof.Machine.execKenable re s
  | .kdisable re => Sys2Proof.Machine.execKdisable re s
  | .kdefault re => Sys2Proof.Machine.execKdefault re s
  | .kreset re => Sys2Proof.Machine.execKreset re s
  | .kresend re => Sys2Proof.Machine.execKresend re s
  | .kecho re => Sys2Proof.Machine.execKecho re s
  | .kleds re => Sys2Proof.Machine.execKleds re s
  | .kscanset re => Sys2Proof.Machine.execKscanset re s
  | .krate re => Sys2Proof.Machine.execKrate re s
  | .kkeys re => Sys2Proof.Machine.execKkeys re s
  | .kallkeys re => Sys2Proof.Machine.execKallkeys re s

end Sys2Proof.Machine
end

