-- ==== Sys2Proof/Machine/Engine.lean ====
section
/-! DEFINITION. One micro-step of the engine (41_link.md R100), and its place in a tick beside the host
access (log entry 1). -/

namespace Sys2Proof.Machine

open Host (Outcome)

/-- The micro-step that `LPH` names (41_link.md R111, R118); a row whose condition is false is a poll
that changes nothing. -/
def microStep (p : Pins) (s : State) : State :=
  match s.lph with
  | .idle => s
  | .rxLow => rxLowStep p s
  | .rxHigh => rxHighStep afterRecv p s
  | .txHold => txHoldStep s
  | .txRtsData => txRtsDataStep s
  | .txRtsRel => txRtsRelStep s
  | .txLow => txLowStep p s
  | .txHigh => txHighStep afterSend p s

/-- The engine's part of a tick: one micro-step if an operation was in flight before the tick's access
(41_link.md R100), on the line levels of the tick. -/
def engineTick (wasBusy : Bool) (lines : Lines) (s : State) : State :=
  if wasBusy then microStep (pinLevels s lines) s else s

/-- The micro-step follows an access that has been performed; a stop stays a stop. -/
def thenEngine (wasBusy : Bool) (lines : Lines) :
    Outcome State Fault Refusal → Outcome State Fault Refusal
  | .next s => .next (engineTick wasBusy lines s)
  | .fault r => .fault r
  | .refused r => .refused r

/-- An input in which the host makes the access `a`, `rst` is 0 and the device drives nothing. -/
def accessInput (a : AccessWord) : Input :=
  { rst := false, access := a, lines := .wired .high .high }

end Sys2Proof.Machine
end

