-- ==== Sys2Proof/Machine/Step.lean ====
section
/-! DEFINITION. One step: one tick of `clk` (41_link.md R100, 20_memory.md R47, 70_reset_and_hazards.md
R180; log entry 1). -/

namespace Sys2Proof.Machine

/-- One tick with the input ports `i`, on a state whose input has been taken. -/
def tick (i : Input) (s : State) : Host.Outcome State Fault Refusal :=
  if i.rst then .next (rstTick s)
  else
    match decode i.access with
    | .ok instr => thenEngine s.status.busy i.lines (exec instr s)
    | .error a => .next (engineTick s.status.busy i.lines (otherAccess a s))

/-- The step. -/
def step (s : State) : Host.Outcome State Fault Refusal := tick s.input s.advance

/-- The instruction's access is the host access of the very next tick; the device drives nothing in
it. -/
def State.withFetchWord (s : State) (nbits w : Nat) : State :=
  { s with inputs := accessInput (BitVec.ofNat 42 (w % 2 ^ nbits)) :: s.inputs }

end Sys2Proof.Machine
end

