-- ==== Sys2Proof/Safety.lean ====
section
/-! DEFINITION. The words in which statements about whole runs are made: the invariant of the engine
(10_state.md R35, R36), the scripts of line levels that a device or a test plays (the premises of
70_reset_and_hazards.md R188, R189, never part of the engine), and an operation seen as the sequence of
its link calls (42_commands.md R149). -/

namespace Sys2Proof.Machine

/-- The clock pulldown is asserted exactly in these phases (10_state.md R36). -/
def LinkPhase.pullsClock : LinkPhase → Bool
  | .txHold | .txRtsData | .txRtsRel => true
  | .idle | .rxLow | .rxHigh | .txLow | .txHigh => false

/-- A receive is running. -/
def LinkPhase.receiving : LinkPhase → Bool
  | .rxLow | .rxHigh => true
  | .idle | .txHold | .txRtsData | .txRtsRel | .txLow | .txHigh => false

/-- A send is running. -/
def LinkPhase.sending : LinkPhase → Bool
  | .txHold | .txRtsData | .txRtsRel | .txLow | .txHigh => true
  | .idle | .rxLow | .rxHigh => false

/-- The bit value the host holds on the data line, in terms of the position: the start bit from the
request-to-send on, bit `k` from the clock-low of period `k` until the clock-low of period `k + 1`, the
stop bit from the clock-low of period 10 on, released (`1`) outside a send (41_link.md R120). -/
def hostBit (s : State) : Bool :=
  match s.lph with
  | .txRtsRel => false
  | .txLow => txWire s.txbyte (s.biti.toNat - 1)
  | .txHigh => txWire s.txbyte (min s.biti.toNat 10)
  | .idle | .rxLow | .rxHigh | .txHold | .txRtsData => true

/-- The sequencer states an operation passes through (42_commands.md R146). -/
def opVisits (op : CmdOp) (c : SeqState) : Bool :=
  match op with
  | .init => false
  | .recv | .send => c == .link
  | .kenable | .kdisable | .kdefault => c == .sendCmd
  | .kreset | .kresend | .kecho => c == .sendCmd || c == .awaitResp
  | .kleds | .krate => c == .sendCmd || c == .sendParam
  | .kscanset => c == .sendCmd || c == .awaitFirstAck || c == .sendParam
  | .kkeys =>
    c == .sendCmd || c == .awaitFirstAck || c == .sendItem || c == .awaitItemAck || c == .sendTerm
  | .kallkeys => c == .sendCmd || c == .awaitFirstAck || c == .sendTerm

/-- The sequencer state in which an operation is receives; in the others it sends. -/
def opReceivesIn (op : CmdOp) (c : SeqState) : Bool :=
  match c with
  | .awaitFirstAck | .awaitItemAck | .awaitResp => true
  | .link => op == .recv
  | .idle | .sendCmd | .sendParam | .sendItem | .sendTerm => false

/-- The position of an operation in flight is one that 42_commands.md R146 has, its link call runs in
the direction of its sequencer state, and the arguments checked at acceptance still pass (20_memory.md
R50). -/
structure InFlight (op : CmdOp) (s : State) : Prop where
  opcode : s.op = op.code
  visits : opVisits op s.cstate = true
  receives : opReceivesIn op s.cstate = true → s.lph.receiving = true
  sends : opReceivesIn op s.cstate = false → s.lph.sending = true
  item : s.cstate = .sendItem ∨ s.cstate = .awaitItemAck → s.kidx.toNat < s.keylen.toNat
  list : op = .kkeys → keylenOk s = true
  set : op = .kscanset → scanSetOk s = true

/-- The invariant of the engine. Inputs to come and the tick counter are unconstrained. -/
structure Inv (s : State) : Prop where
  /-- The configuration conforms (00_scope.md R6). -/
  cfg : s.cfg.wf = true
  /-- `KEYBUF` has `KEYBUF_DEPTH` entries (10_state.md R25). -/
  keybuf : Memory.wf s.cfg.keybufDepth s.keybuf
  /-- `CSTATE = C_IDLE` iff `BUSY = 0` (10_state.md R35). -/
  seqIdle : s.cstate = .idle ↔ s.status.busy = false
  /-- `LPH = L_IDLE` iff no transfer is running; between micro-steps one runs exactly while `BUSY = 1`
  (10_state.md R35, 41_link.md R100). -/
  linkIdle : s.lph = .idle ↔ s.status.busy = false
  /-- `CLK_PD` (10_state.md R36). -/
  clk : s.clkPd = s.lph.pullsClock
  /-- `DATA_PD` is the complement of the bit on the line (00_scope.md R10, 41_link.md R120). -/
  data : s.dataPd = !hostBit s
  /-- `BITI` is 0 to 10 in a receive (10_state.md R28). -/
  rxBit : s.lph.receiving = true → s.biti.toNat ≤ 10
  /-- `BITI` is 1 to 11 in the periods of a send (10_state.md R28). -/
  txBit : s.lph = .txLow ∨ s.lph = .txHigh → 1 ≤ s.biti.toNat ∧ s.biti.toNat ≤ 11
  /-- An operation in flight is one of 30_encoding.md R62, at a position of 42_commands.md R146. -/
  flight : s.status.busy = true → ∃ op, InFlight op s
  /-- While an operation is in flight nothing is reported yet (41_link.md R101, 60_exceptions.md R169). -/
  unreported : s.status.busy = true →
    s.status = { Status.clear with busy := true } ∧ s.res0 = 0 ∧ s.res1 = 0
  /-- `ACKFV` and `ASTEP` are 0 unless `ERR = 2` (10_state.md R26). -/
  detail : s.status.err ≠ .protocolAbort → s.status.ackfv = false ∧ s.status.astep = 0

/-- The state of the engine proper: what is not the engine's (ports, inputs to come, the model's tick
counter) is blanked. -/
def State.engine (s : State) : State := { s with rdata := none, inputs := [], ticks := 0 }

/-- Lines, wired or as pins, on which an engine whose pulldowns stand as in `s` sees a clock level in each
tick; the data level is whatever it is. -/
def ClockIs (s : State) (ls : List Lines) (clks : List Level) : Prop :=
  List.Forall₂ (fun l c => (pinLevels s l).clk = c) ls clks

/-- Lines, wired or as pins, on which an engine whose pulldowns stand as in `s` sees a clock level in each
tick, and a data level where one is asked for; elsewhere the data level is whatever it is. -/
def LevelsAre (s : State) (ls : List Lines) (levels : List (Level × Option Level)) : Prop :=
  List.Forall₂ (fun l p => (pinLevels s l).clk = p.1 ∧ ∀ d ∈ p.2, (pinLevels s l).data = d) ls levels

/-- The clock of `n` pulses, low then high; pulse `i` is low for `lo i + 1` ticks and high for
`hi i + 1` (premise P-POLL, 70_reset_and_hazards.md R190: each phase is seen by at least one poll). -/
def pulses (lo hi : Nat → Nat) (n : Nat) : List Level :=
  (List.range n).flatMap
    (fun i => List.replicate (lo i + 1) Level.low ++ List.replicate (hi i + 1) Level.high)

/-- The clock of a transfer up to the tick that observes its last rising edge: the clock is high for
`wait` ticks, then eleven pulses, whatever the length of each phase. -/
def transferClock (wait : Nat) (lo hi : Nat → Nat) : List Level :=
  List.replicate wait Level.high ++ pulses lo hi 10
    ++ List.replicate (lo 10 + 1) Level.low ++ [Level.high]

/-- The levels of a device that sends the frame word `w` under premise P-RX (70_reset_and_hazards.md
R188): in pulse `i` the data line is at `w[i]` from before the clock goes low until after it has gone high
again, so in every tick that sees the clock low. In a tick that sees the clock high it may be before its
change or after it, and is left open. -/
def frameLevels (w : FrameWord) (wait : Nat) (lo hi : Nat → Nat) : List (Level × Option Level) :=
  let low := fun i => List.replicate (lo i + 1) (Level.low, some (Level.ofBit (w.getLsbD i)))
  List.replicate wait (.high, none)
    ++ (List.range 10).flatMap (fun i => low i ++ List.replicate (hi i + 1) (.high, none))
    ++ low 10 ++ [(.high, none)]

/-- The inputs of a run play lines and never assert `rst`; the host may make any access in any tick. -/
def Plays (ins : List Input) (ls : List Lines) : Prop :=
  ins.map (·.lines) = ls ∧ ∀ i ∈ ins, i.rst = false

/-- The state in which `link_send` returns to its caller (41_link.md R118, R121), from the state at
its entry. -/
def sendReturns (s : State) : State :=
  { s with clkPd := false, dataPd := false, hold := 0, biti := 11, lph := .idle }

/-- The state in which `link_recv` returns to its caller (41_link.md R111), having received the word
`w`. -/
def recvReturns (w : FrameWord) (s : State) : State :=
  { s with shift := w, biti := 10, lph := .idle }

/-- An operation as the sequence of its link calls (42_commands.md R149): the bytes sent, and the state
the operation comes to, when the receives get the words of the list in turn. At most `n` calls are
followed; a receive without a word waits for ever. -/
def callRun : Nat → List FrameWord → State → List Byte × State
  | 0, _, s => ([], s)
  | n + 1, ws, s =>
    match s.lph with
    | .txHold =>
      let r := callRun n ws (afterSend (sendReturns s))
      (s.txbyte :: r.1, r.2)
    | .rxLow =>
      match ws with
      | w :: rest => callRun n rest (afterRecv (recvResult (recvReturns w s)) (recvReturns w s))
      | [] => ([], s)
    | .idle | .rxHigh | .txRtsData | .txRtsRel | .txLow | .txHigh => ([], s)

/-- A frame that is accepted under the flags of `s` and carries `CODE_ACK`: an acknowledgment
(42_commands.md R131). -/
def IsAck (s : State) (w : FrameWord) : Prop := rxCheck s.vflags w = true ∧ rxData w = Config.codeAck

/-- The report of an await that fails (42_commands.md R131). -/
def abortReport (flags : BitVec 3) (step : Byte) (w : FrameWord) : Report :=
  if rxCheck flags w then
    { err := .protocolAbort, res0 := (rxData w).setWidth 16, astep := step, ackfv := false }
  else { err := .protocolAbort, res0 := Config.errSentinel, astep := step, ackfv := true }

/-- The lines of a run of link calls (compare `callRun`): for a send, the hold and the two steps of the
request-to-send, in which no line is read, and then a transfer clock; for a receive, a device that sends
the next word. The pulldowns are released throughout the periods of a send, and in a receive they stand
as at its entry (41_link.md R118, R121). -/
def CallLines : Nat → List FrameWord → State → List Lines → Prop
  | 0, _, _, ls => ls = []
  | n + 1, ws, s, ls =>
    match s.lph with
    | .txHold =>
      ∃ pre mid post_ wait lo hi, ls = pre ++ mid ++ post_ ∧ pre.length = s.hold + 3
        ∧ ClockIs (sendReturns s) mid (transferClock wait lo hi)
        ∧ CallLines n ws (afterSend (sendReturns s)) post_
    | .rxLow =>
      match ws with
      | w :: rest =>
        ∃ mid post_ wait lo hi, ls = mid ++ post_ ∧ LevelsAre s mid (frameLevels w wait lo hi)
          ∧ CallLines n rest (afterRecv (recvResult (recvReturns w s)) (recvReturns w s)) post_
      | [] => ls = []
    | .idle | .rxHigh | .txRtsData | .txRtsRel | .txLow | .txHigh => ls = []

/-- `k` steps of the machine. -/
def run (k : Nat) (s : State) : Host.Outcome State Fault Refusal := Host.Core.run Sys2Proof.core k s

/-- The bytes whose sends pass, in `k` steps, the tick that ends the request-to-send; every send has
exactly one such tick (41_link.md R118), and the byte being sent then is the one that goes on the wire. -/
def bytesPut : Nat → State → List Byte
  | 0, _ => []
  | k + 1, s =>
    (if s.lph = .txRtsRel then [s.txbyte] else []) ++
      match step s with
      | .next t => bytesPut k t
      | .fault _ | .refused _ => []

/-- What the read half of a `CMD` write leaves on the read port: `CMD` reads 0 (20_memory.md R45). -/
def cmdRead (re : Bool) (s : State) : Option Word := if re then some 0 else s.rdata

/-- The state in which an operation is in flight with the first poll of a receive ahead (41_link.md
R101, R111). -/
def acceptedRecv (re : Bool) (opc : Byte) (s : State) : State :=
  { s with
    status := { Status.clear with busy := true }
    res0 := 0
    res1 := 0
    op := opc
    cstate := .link
    shift := 0
    biti := 0
    lph := .rxLow
    rdata := cmdRead re s }

/-- The state in which an operation is in flight with the request-to-send for the byte `d` begun
(41_link.md R101, R118). -/
def acceptedSend (re : Bool) (opc : Byte) (c : SeqState) (d : Byte) (s : State) : State :=
  { s with
    status := { Status.clear with busy := true }
    res0 := 0
    res1 := 0
    op := opc
    cstate := c
    txbyte := d
    clkPd := true
    hold := s.cfg.rtsHoldUs * s.cfg.ticksPerUs
    lph := .txHold
    rdata := cmdRead re s }

/-- The state after an operation that ends with an error in its acceptance step (60_exceptions.md R164,
R165). -/
def rejected (re : Bool) (opc : Byte) (e : ErrCode) (s : State) : State :=
  { s with
    status := { Status.clear with done := true, err := e }
    res0 := 0
    res1 := 0
    op := opc
    cstate := .idle
    lph := .idle
    rdata := cmdRead re s }

/-- `t` is the engine at rest after an operation that began in `s` has reported `r`: the report stands in
`STATUS`, `RES0`, `RES1`, the lines are released, and flags, operands and key buffer are as they were
(41_link.md R102, R121; 10_state.md R37). -/
structure Completed (r : Report) (s t : State) : Prop where
  status : t.status =
    { busy := false, done := true, err := r.err, ackfv := r.ackfv, astep := r.astep }
  res0 : t.res0 = r.res0
  res1 : t.res1 = r.res1
  cstate : t.cstate = .idle
  lph : t.lph = .idle
  clkPd : t.clkPd = false
  dataPd : t.dataPd = false
  vflags : t.vflags = s.vflags
  arg0 : t.arg0 = s.arg0
  arg1 : t.arg1 = s.arg1
  keylen : t.keylen = s.keylen
  keybuf : t.keybuf = s.keybuf
  cfg : t.cfg = s.cfg

/-- What a receive of the word `w` returns under the flags `f` (41_link.md R110). -/
def wordResult (f : BitVec 3) (w : FrameWord) : RecvResult :=
  if rxCheck f w then .ok (rxData w) else .err

end Sys2Proof.Machine
end

