-- ==== Sys2Proof/Certificates/Slice0/Obligations.lean ====
section
/-! DEFINITION. The statements for the provers. Each docstring names the rules of spec/ it formalises. -/

open Sys2Proof Sys2Proof.Machine

/-! ## Encoding -/

/-- 30_encoding.md R60 to R62: no bit of an operation is lost on the way through its access word. -/
def Obligations.DecodeOfEncodeIsTheInstruction : Prop :=
  ∀ i : Instr, i.wf = true → decode (encode i) = .ok i

/-- 30_encoding.md R61, R62: `a & mask = match` for the rows of the opcode table, the ignored bits
playing no part; an access with both strobes on register 2 is the write with its read (20_memory.md R41;
log entry 10, DEDUCED). -/
def Obligations.DecodeMatchesTheOpcodeTable : Prop :=
  (∀ (a : AccessWord) (op : CmdOp) (re : Bool),
    decode a = .ok (op.instr re) ↔
      a &&& 0x2FF000000FF#42 = 0x20000000000#42 ||| op.code.setWidth 42 ∧ a.getLsbD 40 = re)
  ∧ (∀ (a : AccessWord) (re start stop parity : Bool),
    decode a = .ok (.setflags re start stop parity) ↔
      a &&& 0x2FF00000000#42 = 0x20200000000#42 ∧ a.getLsbD 40 = re ∧ a.getLsbD 0 = start
        ∧ a.getLsbD 1 = stop ∧ a.getLsbD 2 = parity)
  ∧ (∀ a : AccessWord,
    decode a = .ok .getflags ↔ a &&& 0x1FF00000000#42 = 0x10200000000#42 ∧ a.getLsbD 41 = false)

/-- 95_test_vectors.md section 3: access words written out there. -/
def Obligations.DecodeOfWrittenWords : Prop :=
  decode 0x20000000001#42 = .ok (.init false)
  ∧ decode 0x20000000002#42 = .ok (.recv false)
  ∧ decode 0x20000000003#42 = .ok (.send false)
  ∧ decode 0x20200000003#42 = .ok (.setflags false true true false)
  ∧ decode 0x20000000015#42 = .ok (.kecho false)
  ∧ decode 0x20000000017#42 = .ok (.kscanset false)
  ∧ decode 0x20000000018#42 = .ok (.krate false)
  ∧ decode 0x20000000019#42 = .ok (.kkeys false)
  ∧ decode 0x2000000001B#42 = .error (.illegalOpcode false 0x1B)
  ∧ decode 0x10100000000#42 = .error (.readReg 1)
  ∧ decode 0x2400000001C#42 = .error (.writeReg false 64 0x1C)

/-! ## The step -/

/-- 41_link.md R100, 20_memory.md R47: a tick whose access decodes to an operation runs it, and then, if
the engine was busy, one micro-step (the order inside the tick is log entry 1's, DEDUCED). -/
def Obligations.StepRunsTheDecodedInstruction : Prop :=
  ∀ (s u : State) (i : Instr), s.input.rst = false → decode s.input.access = .ok i →
    exec i s.advance = .next u →
    step s = .next (if s.status.busy then microStep (pinLevels u s.input.lines) u else u)

/-- 20_memory.md R41, R45, R46: a tick whose access is no row of the opcode table has the effect of that
access, and then, if the engine was busy, one micro-step (log entries 1 and 12, DEDUCED). -/
def Obligations.StepPerformsEveryOtherAccess : Prop :=
  ∀ (s u : State) (a : OtherAccess), s.input.rst = false → decode s.input.access = .error a →
    otherAccess a s.advance = u →
    step s = .next (if s.status.busy then microStep (pinLevels u s.input.lines) u else u)

/-- An operation's word, placed as the access of the next tick of an idle engine, is run by that tick (the
placing is the model's, log entry 18, DESIGN CHOICE). -/
def Obligations.PlacedWordIsRunByTheNextStep : Prop :=
  ∀ (s u : State) (nbits w : Nat) (i : Instr), s.status.busy = false →
    decodeTableWord nbits w = some i →
    exec i { s with ticks := s.ticks + 1, rdata := none } = .next u →
    step (s.withFetchWord nbits w) = .next u

/-- 60_exceptions.md R161, R167, R169: no access, no error and no hang stops the machine (log entry 14,
DEDUCED). -/
def Obligations.EveryStepAnswersANextState : Prop :=
  ∀ s : State, ∃ t : State, step s = .next t

/-- 70_reset_and_hazards.md R180, 10_state.md R34: a tick with `rst = 1` gives every piece of state its
reset value, whatever the engine was doing and whatever the host does in the tick (the read port: log
entry 9, DESIGN CHOICE). -/
def Obligations.ResetTickRestoresEveryResetValue : Prop :=
  ∀ s : State, s.input.rst = true → ∃ t : State, step s = .next t
    ∧ t.vflags = 7 ∧ t.clkPd = false ∧ t.dataPd = false ∧ t.status.toWord = 0
    ∧ t.status = Status.clear ∧ t.arg0 = 0 ∧ t.arg1 = 0 ∧ t.res0 = 0 ∧ t.res1 = 0 ∧ t.keylen = 0
    ∧ t.lph = .idle ∧ t.cstate = .idle ∧ t.op = 0 ∧ t.kidx = 0 ∧ t.biti = 0 ∧ t.shift = 0
    ∧ t.txbyte = 0 ∧ t.hold = 0 ∧ t.rdata = none ∧ Memory.wf t.cfg.keybufDepth t.keybuf
    ∧ t.cfg = s.cfg ∧ t.inputs = s.inputs.tail

/-- 10_state.md R34, 95_test_vectors.md 2.5: what the host reads after reset. -/
def Obligations.HostReadsAfterReset : Prop :=
  hostRead State.reset 0 = 0 ∧ hostRead State.reset 1 = 0 ∧ hostRead State.reset 2 = 7
  ∧ hostRead State.reset 3 = 0 ∧ hostRead State.reset 4 = 0 ∧ hostRead State.reset 5 = 0
  ∧ hostRead State.reset 6 = 0 ∧ hostRead State.reset 7 = 0 ∧ hostRead State.reset 8 = 0
  ∧ State.reset.clkPd = false ∧ State.reset.dataPd = false

/-! ## Invariants -/

/-- The invariant holds after reset (10_state.md R34 to R36). -/
def Obligations.InvariantHoldsAtReset : Prop := Inv State.reset

/-- Every step keeps the invariant: position, pulldowns, bit on the wire, bit index, operands of the
operation in flight, nothing reported before the end (10_state.md R35, R36, R28; 41_link.md R120). -/
def Obligations.EveryStepKeepsTheInvariant : Prop :=
  ∀ s t : State, Inv s → step s = .next t → Inv t

/-- 10_state.md R32: the parameters are not state; no step changes them. -/
def Obligations.NoStepChangesTheConfiguration : Prop :=
  ∀ s t : State, step s = .next t → t.cfg = s.cfg

/-- 10_state.md R23, 42_commands.md R150: only the host's write of register 2 and `rst` change the
validation flags: not INIT, not a keyboard command, not KRESET. -/
def Obligations.ValidationFlagsChangeOnlyByHostWriteOrReset : Prop :=
  ∀ s t : State, step s = .next t → t.vflags ≠ s.vflags →
    (s.input.rst = true ∧ t.vflags = 7)
    ∨ (s.status.busy = false ∧ Access.we s.input.access = true ∧ Access.idx s.input.access = 2
        ∧ t.vflags = (Access.wdata s.input.access).setWidth 3)

/-- 20_memory.md R50, R53: from acceptance to completion no operand changes. -/
def Obligations.OperandsAreStableWhileBusy : Prop :=
  ∀ s t : State, s.status.busy = true → s.input.rst = false → step s = .next t →
    t.vflags = s.vflags ∧ t.arg0 = s.arg0 ∧ t.arg1 = s.arg1 ∧ t.keylen = s.keylen
      ∧ t.keybuf = s.keybuf

/-- 20_memory.md R48: the engine writes `RES0`, `RES1` and `STATUS` only at acceptance and, together, at
completion. A step with `rst = 0` that starts and ends busy, or starts and ends with no operation
issued, leaves all three. -/
def Obligations.ResultsAreWrittenOnlyAtAcceptanceAndCompletion : Prop :=
  ∀ s t : State, s.input.rst = false → step s = .next t →
    (s.status.busy = true → t.status.busy = true → t.status = s.status ∧ t.res0 = s.res0 ∧ t.res1 = s.res1)
    ∧ (s.status.busy = true → t.status.busy = false → t.status.done = true ∧ t.lph = .idle ∧ t.cstate = .idle)
    ∧ (s.status.busy = false →
        ¬ (Access.we s.input.access = true ∧ Access.idx s.input.access = 0) →
        t.status = s.status ∧ t.res0 = s.res0 ∧ t.res1 = s.res1)

/-! ## The host port -/

/-- 20_memory.md R46: while busy, an access changes nothing but the read port, whatever it is; the read
returns the current value (the one before the tick's micro-step: log entry 1, DEDUCED). -/
def Obligations.HostWritesAreIgnoredWhileBusy : Prop :=
  ∀ (s : State) (i : Input) (rest : List Input), s.status.busy = true → s.inputs = i :: rest →
    i.rst = false →
    ∃ t u : State, step s = .next t
      ∧ step { s with inputs := { i with access := 0 } :: rest } = .next u
      ∧ { t with rdata := none } = { u with rdata := none }
      ∧ t.rdata = (if Access.re i.access then some (hostRead s (Access.idx i.access)) else none)

/-- 20_memory.md R45, R47: a write of a register other than `CMD` by an idle engine's host stores the
listed bits and drops the others; every other register reads as before; read-only and reserved numbers
ignore the write; the key-code buffer keeps its length and every entry but the one written, with or
without a register number of its own; nothing else of the engine changes (the read port: log entry 9, DESIGN CHOICE). -/
def Obligations.HostWriteStoresTheListedBits : Prop :=
  ∀ (s : State) (re : Bool) (idx : BitVec 8) (v : Word), s.status.busy = false →
    s.input.rst = false → s.input.access = Access.make true re idx v → idx ≠ 0 →
    Memory.wf s.cfg.keybufDepth s.keybuf →
    ∃ t : State, step s = .next t
      ∧ (∀ k : BitVec 8, k ≠ idx → hostRead t k = hostRead s k)
      ∧ hostRead t idx =
          (if idx = 2 then v &&& 7
           else if idx = 3 ∨ idx = 4 then v &&& 0xFFFF
           else if idx = 7 then v &&& 0xFF
           else if 64 ≤ idx.toNat ∧ idx.toNat < 64 + s.cfg.keybufDepth then v &&& 0xFF
           else hostRead s idx)
      ∧ t.keybuf.length = s.keybuf.length
      ∧ (∀ j : Nat, idx.toNat ≠ 64 + j ∨ s.cfg.keybufDepth ≤ j →
          Memory.read t.keybuf j = Memory.read s.keybuf j)
      ∧ { t with vflags := s.vflags, arg0 := s.arg0, arg1 := s.arg1, keylen := s.keylen,
                 keybuf := s.keybuf }
          = { s.advance with rdata := if re then some (hostRead s idx) else none }

/-- 20_memory.md R45, R47; 10_state.md R26, R27: what a read returns, for every register number, and that
it changes nothing (the port holds a value in the tick of a read only: log entry 9, DESIGN CHOICE). -/
def Obligations.HostReadReturnsTheRegisterAndChangesNothing : Prop :=
  ∀ (s : State) (idx : BitVec 8) (v : Word), s.status.busy = false → s.input.rst = false →
    s.input.access = Access.make false true idx v →
    step s = .next { s.advance with
      rdata := some (
        if idx = 1 then s.status.toWord
        else if idx = 2 then s.vflags.setWidth 32
        else if idx = 3 then s.arg0.setWidth 32
        else if idx = 4 then s.arg1.setWidth 32
        else if idx = 5 then s.res0.setWidth 32
        else if idx = 6 then s.res1.setWidth 32
        else if idx = 7 then s.keylen.setWidth 32
        else if 64 ≤ idx.toNat ∧ idx.toNat < 64 + s.cfg.keybufDepth then
          (Memory.read s.keybuf (idx.toNat - 64)).setWidth 32
        else 0) }

/-- 10_state.md R26, 60_exceptions.md R160: the layout of `STATUS`, all other bits reading 0, and the
five error codes. -/
def Obligations.StatusWordLayout : Prop :=
  ∀ st : Status,
    st.toWord.getLsbD 0 = st.busy ∧ st.toWord.getLsbD 1 = st.done
    ∧ st.toWord.extractLsb' 2 3 = st.err.code ∧ st.toWord.getLsbD 5 = st.ackfv
    ∧ st.toWord.extractLsb' 6 2 = 0#2 ∧ st.toWord.extractLsb' 8 8 = st.astep
    ∧ st.toWord.extractLsb' 16 16 = 0#16
    ∧ st.toWord.extractLsb' 2 3 =
        (match st.err with
         | .noError => 0#3
         | .framingViolation => 1#3
         | .protocolAbort => 2#3
         | .invalidArgument => 3#3
         | .illegalOperation => 4#3)

/-- 60_exceptions.md R165, 30_encoding.md R64(a): a `CMD` write with a reserved opcode by an idle
engine's host completes at once with `ERR = 4`; no pin is touched and nothing but `STATUS`, `RES0`,
`RES1` and `OP` changes (the read port: log entry 9, DESIGN CHOICE). -/
def Obligations.ReservedOpcodeIsIllegalOperation : Prop :=
  ∀ (s : State) (re : Bool) (v : Word) (opc : Byte), s.status.busy = false → s.lph = .idle →
    s.cstate = .idle → s.input.rst = false → s.input.access = Access.make true re 0 v →
    opc = v.setWidth 8 →
    (opc.toNat = 0 ∨ (4 ≤ opc.toNat ∧ opc.toNat ≤ 0x0F) ∨ 0x1B ≤ opc.toNat) →
    step s = .next { s.advance with
      status := { Status.clear with done := true, err := .illegalOperation }
      res0 := 0
      res1 := 0
      op := opc
      rdata := if re then some 0 else none }

/-! ## The codec -/

/-- 40_codec.md R80: odd parity. -/
def Obligations.ComputeParityIsOddParity : Prop :=
  ∀ d : Byte,
    (computeParity d = true ↔ popcount d % 2 = 0)
    ∧ computeParity d = !(d.getLsbD 0 ^^ d.getLsbD 1 ^^ d.getLsbD 2 ^^ d.getLsbD 3 ^^ d.getLsbD 4
        ^^ d.getLsbD 5 ^^ d.getLsbD 6 ^^ d.getLsbD 7)
    ∧ (popcount d + (computeParity d).toNat) % 2 = 1

/-- 40_codec.md R82, R83: sample `i` is bit `i` of the word, and the data are bits 8 to 1. -/
def Obligations.AssembledWordHoldsTheSamples : Prop :=
  ∀ samples : Nat → Bool,
    (∀ i : Nat, i < 11 → (rxAssemble samples).getLsbD i = samples i)
    ∧ (∀ i : Nat, i < 8 → (rxData (rxAssemble samples)).getLsbD i = samples (i + 1))

/-- 40_codec.md R84, 30_encoding.md R65: each enabled check is one bit's condition; with all checks off
every word is accepted, with all on exactly the 256 valid frames. -/
def Obligations.RxCheckAcceptsExactlyByTheEnabledChecks : Prop :=
  (∀ (f : BitVec 3) (w : FrameWord), rxCheck f w = true ↔
    (f.getLsbD 0 = true → w.getLsbD 0 = false) ∧ (f.getLsbD 1 = true → w.getLsbD 10 = true)
      ∧ (f.getLsbD 2 = true → computeParity (w.extractLsb' 1 8) = w.getLsbD 9))
  ∧ (∀ w : FrameWord, rxCheck 0 w = true)
  ∧ (∀ w : FrameWord, rxCheck 7 w = true ↔ ∃ d : Byte,
      w = (1#11 <<< 10) ||| ((BitVec.ofBool (computeParity d)).setWidth 11 <<< 9)
        ||| (d.setWidth 11 <<< 1))

/-- 40_codec.md R87: a byte sent and parsed again is the byte, under every policy. -/
def Obligations.SentFrameParsesBackToTheByte : Prop :=
  ∀ (d : Byte) (f : BitVec 3),
    rxCheck f (rxAssemble (txWire d)) = true ∧ rxData (rxAssemble (txWire d)) = d
    ∧ rxAssemble (txWire d)
        = (1#11 <<< 10) ||| ((BitVec.ofBool (computeParity d)).setWidth 11 <<< 9)
          ||| (d.setWidth 11 <<< 1)

/-- 40_codec.md R88: a corrupted parity, start or stop bit is refused exactly when its check is on. -/
def Obligations.CorruptedBitIsRefusedExactlyWhenChecked : Prop :=
  ∀ (d : Byte) (f : BitVec 3),
    (rxCheck f (rxAssemble (txWire d) ^^^ (1#11 <<< 9)) = !f.getLsbD 2
      ∧ rxData (rxAssemble (txWire d) ^^^ (1#11 <<< 9)) = d)
    ∧ (rxCheck f (rxAssemble (txWire d) ^^^ 1#11) = !f.getLsbD 0
      ∧ rxData (rxAssemble (txWire d) ^^^ 1#11) = d)
    ∧ (rxCheck f (rxAssemble (txWire d) ^^^ (1#11 <<< 10)) = !f.getLsbD 1
      ∧ rxData (rxAssemble (txWire d) ^^^ (1#11 <<< 10)) = d)

/-! ## Operands -/

/-- 42_commands.md R142: the closest entry, ties to the lowest index. -/
def Obligations.SelectClosestIsTheLowestNearestIndex : Prop :=
  ∀ (table : List Half) (q : Half), table ≠ [] →
    ∃ v : Half, table[selectClosest table q]? = some v
      ∧ ∀ (i : Nat) (u : Half), table[i]? = some u →
        absDiff v.toNat q.toNat ≤ absDiff u.toNat q.toNat
        ∧ (i < selectClosest table q → absDiff v.toNat q.toNat < absDiff u.toNat q.toNat)

/-- 42_commands.md R141, 95_test_vectors.md E4: the source's three typematic examples, for every
conforming rate table. -/
def Obligations.TypematicExamplesHoldForEveryRateTable : Prop :=
  ∀ (p : Config.Params) (q : Half), p.wf = true →
    (300 ≤ q.toNat → selectClosest p.rateTable q = 0)
    ∧ (q.toNat ≤ 20 → selectClosest p.rateTable q = 31)
    ∧ selectClosest Config.delayTable 250 = 0 ∧ selectClosest Config.delayTable 600 = 1

/-- 30_encoding.md R68, 40_codec.md R89(d): the fields of the control byte. -/
def Obligations.ControlByteFields : Prop :=
  ∀ ri di : Nat, ri < 32 → di < 4 →
    (controlByte ri di).toNat = ri + 32 * di
    ∧ ((controlByte ri di).extractLsb' 0 5).toNat = ri
    ∧ ((controlByte ri di).extractLsb' 5 2).toNat = di ∧ (controlByte ri di).getLsbD 7 = false

/-! ## Acceptance: every operation -/

/-- 41_link.md R108: INIT releases both pulldowns and completes in its acceptance step. -/
def Obligations.InitReleasesThePulldownsAndCompletes : Prop :=
  ∀ (s : State) (re : Bool), s.status.busy = false →
    exec (.init re) s = .next { s with
      clkPd := false
      dataPd := false
      status := { Status.clear with done := true }
      res0 := 0
      res1 := 0
      op := 0x01
      cstate := .idle
      lph := .idle
      rdata := cmdRead re s }

/-- 41_link.md R106: SETFLAGS writes the three flags and nothing else; ignored while busy. -/
def Obligations.SetflagsWritesTheThreeFlags : Prop :=
  ∀ (s : State) (re start stop parity : Bool),
    (s.status.busy = false → ∃ t : State, exec (.setflags re start stop parity) s = .next t
      ∧ t.vflags.getLsbD 0 = start ∧ t.vflags.getLsbD 1 = stop ∧ t.vflags.getLsbD 2 = parity
      ∧ { t with vflags := s.vflags }
          = { s with rdata := if re then some (s.vflags.setWidth 32) else s.rdata })
    ∧ (s.status.busy = true → exec (.setflags re start stop parity) s
        = .next { s with rdata := if re then some (s.vflags.setWidth 32) else s.rdata })

/-- 41_link.md R107: GETFLAGS returns the flags, busy or not, and changes nothing else. -/
def Obligations.GetflagsReturnsTheFlags : Prop :=
  ∀ s : State, exec .getflags s = .next { s with rdata := some (s.vflags.setWidth 32) }

/-- 41_link.md R101, R109, R115: RECV and SEND of an idle engine are accepted and their link call
starts. -/
def Obligations.RecvAndSendStartTheirLinkCall : Prop :=
  ∀ (s : State) (re : Bool), s.status.busy = false →
    exec (.recv re) s = .next (acceptedRecv re 0x02 s)
    ∧ exec (.send re) s = .next (acceptedSend re 0x03 .link (s.arg0.setWidth 8) s)

/-- 41_link.md R101, 42_commands.md R133 to R139, R141, R145: the commands without an argument check are
accepted by an idle engine and send their first byte; for KALLKEYS the four cells of the selector table of
30_encoding.md R71 are written out. -/
def Obligations.KeyboardCommandsSendTheirFirstByte : Prop :=
  ∀ (s : State) (re : Bool), s.status.busy = false →
    exec (.kenable re) s = .next (acceptedSend re 0x10 .sendCmd s.cfg.codeEnable s)
    ∧ exec (.kdisable re) s = .next (acceptedSend re 0x11 .sendCmd s.cfg.codeDisable s)
    ∧ exec (.kdefault re) s = .next (acceptedSend re 0x12 .sendCmd s.cfg.codeSetDefault s)
    ∧ exec (.kreset re) s = .next (acceptedSend re 0x13 .sendCmd s.cfg.codeReset s)
    ∧ exec (.kresend re) s = .next (acceptedSend re 0x14 .sendCmd s.cfg.codeResend s)
    ∧ exec (.kecho re) s = .next (acceptedSend re 0x15 .sendCmd s.cfg.codeEcho s)
    ∧ exec (.kleds re) s = .next (acceptedSend re 0x16 .sendCmd s.cfg.codeSetLeds s)
    ∧ exec (.krate re) s = .next (acceptedSend re 0x18 .sendCmd s.cfg.codeSetRate s)
    ∧ exec (.kallkeys re) s = .next (acceptedSend re 0x1A .sendCmd
        (if s.arg0.getLsbD 0 then
          (if s.arg0.getLsbD 1 then s.cfg.keyselAll.ib1it1 else s.cfg.keyselAll.ib1it0)
         else (if s.arg0.getLsbD 1 then s.cfg.keyselAll.ib0it1 else s.cfg.keyselAll.ib0it0)) s)

/-- 42_commands.md R140, 60_exceptions.md R164: KSCANSET with a set number 1 to 3 sends its command byte;
any other sixteen-bit number is InvalidArgument at once, with no pin touched. -/
def Obligations.KscansetAcceptsOneToThreeOnly : Prop :=
  ∀ (s : State) (re : Bool), s.status.busy = false →
    (1 ≤ s.arg0.toNat ∧ s.arg0.toNat ≤ 3 →
      exec (.kscanset re) s = .next (acceptedSend re 0x17 .sendCmd s.cfg.codeScanSet s))
    ∧ (s.arg0.toNat = 0 ∨ 4 ≤ s.arg0.toNat →
      exec (.kscanset re) s = .next (rejected re 0x17 .invalidArgument s))

/-- 42_commands.md R144, 60_exceptions.md R164: KKEYS with a list that fits the buffer sends its
selector, the four cells of the selector table of 30_encoding.md R71 written out; a longer one is
InvalidArgument at once, with no pin touched. -/
def Obligations.KkeysAcceptsAListThatFits : Prop :=
  ∀ (s : State) (re : Bool), s.status.busy = false →
    (s.keylen.toNat ≤ s.cfg.keybufDepth →
      exec (.kkeys re) s = .next (acceptedSend re 0x19 .sendCmd
        (if s.arg0.getLsbD 0 then
          (if s.arg0.getLsbD 1 then s.cfg.keyselOne.ib1it1 else s.cfg.keyselOne.ib1it0)
         else (if s.arg0.getLsbD 1 then s.cfg.keyselOne.ib0it1 else s.cfg.keyselOne.ib0it0)) s))
    ∧ (s.cfg.keybufDepth < s.keylen.toNat →
      exec (.kkeys re) s = .next (rejected re 0x19 .invalidArgument s))

/-- 41_link.md R101, 20_memory.md R46: a `CMD` write while busy does nothing; its read half returns 0. -/
def Obligations.CommandWriteWhileBusyDoesNothing : Prop :=
  ∀ (s : State) (op : CmdOp) (re : Bool), s.status.busy = true →
    exec (op.instr re) s = .next { s with rdata := cmdRead re s }

/-! ## The link layer -/

/-- 41_link.md R111: the rows of the receive table; a row whose condition is false changes nothing. -/
def Obligations.ReceivePhaseRows : Prop :=
  ∀ (s : State) (p : Pins),
    (s.lph = .rxLow → p.clk = .low → ∃ w : FrameWord,
      microStep p s = { s with shift := w, lph := .rxHigh }
      ∧ ∀ j : Nat, j < 11 → w.getLsbD j = if j = s.biti.toNat then p.data.bit else s.shift.getLsbD j)
    ∧ (s.lph = .rxLow → p.clk = .high → microStep p s = s)
    ∧ (s.lph = .rxHigh → p.clk = .high → s.biti.toNat < 10 →
      microStep p s = { s with biti := s.biti + 1, lph := .rxLow })
    ∧ (s.lph = .rxHigh → p.clk = .high → s.biti = 10 →
      microStep p s = afterRecv (wordResult s.vflags s.shift) { s with lph := .idle })
    ∧ (s.lph = .rxHigh → p.clk = .low → microStep p s = s)

/-- 41_link.md R118: the rows of the send table; a row whose condition is false changes nothing. -/
def Obligations.SendPhaseRows : Prop :=
  ∀ (s : State) (p : Pins),
    (s.lph = .txHold → 0 < s.hold → microStep p s = { s with hold := s.hold - 1 })
    ∧ (s.lph = .txHold → s.hold = 0 → microStep p s = { s with lph := .txRtsData })
    ∧ (s.lph = .txRtsData → microStep p s = { s with dataPd := true, lph := .txRtsRel })
    ∧ (s.lph = .txRtsRel → microStep p s = { s with clkPd := false, biti := 1, lph := .txLow })
    ∧ (s.lph = .txLow → p.clk = .low → 1 ≤ s.biti.toNat → s.biti.toNat ≤ 10 →
      microStep p s = { s with dataPd := !txWire s.txbyte s.biti.toNat, lph := .txHigh })
    ∧ (s.lph = .txLow → p.clk = .low → s.biti = 11 → microStep p s = { s with lph := .txHigh })
    ∧ (s.lph = .txLow → p.clk = .high → microStep p s = s)
    ∧ (s.lph = .txHigh → p.clk = .high → s.biti.toNat < 11 →
      microStep p s = { s with biti := s.biti + 1, lph := .txLow })
    ∧ (s.lph = .txHigh → p.clk = .high → s.biti = 11 →
      microStep p s = afterSend { s with lph := .idle })
    ∧ (s.lph = .txHigh → p.clk = .low → microStep p s = s)

/-- 40_codec.md R85, R86: the bits of a send. -/
def Obligations.SentBitsAreStartDataParityStop : Prop :=
  ∀ d : Byte,
    txWire d 0 = false ∧ (∀ k : Nat, 1 ≤ k → k ≤ 8 → txWire d k = d.getLsbD (k - 1))
    ∧ txWire d 9 = computeParity d ∧ txWire d 10 = true

/-- 41_link.md R117, R118, R184, R197: the request-to-send. From its entry the clock stays pulled for
`HOLD + 3` ticks, whatever the lines and the host do; the data line, if it was released at the entry,
stays released until one tick before the clock is released, and is pulled then; then the engine waits for
period 1. -/
def Obligations.RequestToSendHoldsTheClockThenPullsData : Prop :=
  ∀ (s : State) (ins rest : List Input), s.status.busy = true → s.lph = .txHold → s.clkPd = true →
    s.inputs = ins ++ rest → ins.length = s.hold + 3 → (∀ i ∈ ins, i.rst = false) →
    (∀ m : Nat, m ≤ s.hold + 2 → ∃ u : State, run m s = .next u ∧ u.clkPd = true)
    ∧ (s.dataPd = false → ∀ m : Nat, m ≤ s.hold + 1 →
        ∃ u : State, run m s = .next u ∧ u.dataPd = false)
    ∧ (∃ u : State, run (s.hold + 2) s = .next u ∧ u.dataPd = true ∧ u.lph = .txRtsRel)
    ∧ (∃ t : State, run (s.hold + 3) s = .next t ∧ t.clkPd = false ∧ t.dataPd = true
        ∧ t.lph = .txLow ∧ t.biti = 1 ∧ t.txbyte = s.txbyte ∧ t.inputs = rest)

/-- 41_link.md R105, R118; 70_reset_and_hazards.md R184: every send loads a hold of at least 100
microseconds' ticks. -/
def Obligations.EverySendHoldsAtLeastTheMinimum : Prop :=
  ∀ (s : State) (d : Byte), s.cfg.wf = true →
    (startSend d s).hold = s.cfg.rtsHoldUs * s.cfg.ticksPerUs
    ∧ 100 * s.cfg.ticksPerUs ≤ (startSend d s).hold ∧ (startSend d s).clkPd = true
    ∧ (startSend d s).lph = .txHold

/-- 41_link.md R113, 60_exceptions.md R169: while the awaited clock level does not come the engine stays
where it is, for as long as that lasts, whatever the host does short of `rst`; it reports nothing. -/
def Obligations.SilentDeviceHangsTheOperation : Prop :=
  ∀ (s : State) (ins rest : List Input) (ls : List Lines) (clk : Level), s.status.busy = true →
    ((s.lph = .rxLow ∨ s.lph = .txLow) ∧ clk = .high
      ∨ (s.lph = .rxHigh ∨ s.lph = .txHigh) ∧ clk = .low) →
    s.inputs = ins ++ rest → Plays ins ls → ClockIs s ls (List.replicate ls.length clk) →
    ∃ t : State, run ins.length s = .next t ∧ t.engine = s.engine ∧ t.inputs = rest

/-- 41_link.md R119, R122: the data pin, or the device's data driver on the wiring of 10_state.md R21,
matters only to the poll that samples a receive bit, that is in `RX_LOW` with the clock seen low; in
particular the acknowledge bit of a send is discarded. -/
def Obligations.DataPinMattersOnlyToAReceiveSample : Prop :=
  ∀ (s : State) (i : Input) (rest : List Input) (clk d d' : Level), s.inputs = i :: rest →
    (s.lph ≠ .rxLow ∨ clk = .high →
      step { s with inputs := { i with lines := .pins clk d } :: rest }
        = step { s with inputs := { i with lines := .pins clk d' } :: rest })
    ∧ (s.lph ≠ .rxLow ∨ s.clkPd = false ∧ clk = .high →
      step { s with inputs := { i with lines := .wired clk d } :: rest }
        = step { s with inputs := { i with lines := .wired clk d' } :: rest })

/-- 10_state.md R21, R36; 00_scope.md R10; 41_link.md R117, R120: on the wiring of R21 each line is high
iff its pulldown and the device have released it. With the device's data driver released, the data line
is at the bit being sent: the start bit from the request-to-send until the clock-low of period 1, bit `k`
from the clock-low of period `k` (`TX_HIGH`, `BITI = k`) until that of period `k + 1` (`TX_LOW`,
`BITI = k + 1`, in which the device reads it), the stop bit from the clock-low of period 10 on; outside
these phases the line is released. -/
def Obligations.WiredDataLineCarriesTheSentBit : Prop :=
  ∀ (s : State) (devClk devData : Level),
    ((pinLevels s (.wired devClk devData)).clk = .high ↔ s.clkPd = false ∧ devClk = .high)
    ∧ ((pinLevels s (.wired devClk devData)).data = .high ↔ s.dataPd = false ∧ devData = .high)
    ∧ (Inv s →
      (s.lph = .txRtsRel → (pinLevels s (.wired devClk .high)).data = .low)
      ∧ (s.lph = .txLow → s.biti = 1 → (pinLevels s (.wired devClk .high)).data = .low)
      ∧ (∀ k : Nat, 1 ≤ k → k ≤ 10 →
          s.lph = .txHigh ∧ s.biti.toNat = k ∨ s.lph = .txLow ∧ s.biti.toNat = k + 1 →
          (pinLevels s (.wired devClk .high)).data = Level.ofBit (txWire s.txbyte k))
      ∧ (s.lph = .txHigh → s.biti = 11 → (pinLevels s (.wired devClk .high)).data = .high)
      ∧ (s.lph = .idle ∨ s.lph = .rxLow ∨ s.lph = .rxHigh ∨ s.lph = .txHold ∨ s.lph = .txRtsData →
          (pinLevels s (.wired devClk .high)).data = .high))

/-- 41_link.md R109, R110, R112; 70_reset_and_hazards.md R188, R190: RECV, from its `CMD` write on, under
a device that sends the word `w` (premise P-RX: the data line at bit `i` while the clock of pulse `i` is
low, and at any level while the clock is high) with any length of every phase, on wired lines or on the pins themselves
(the engine is idle, so its pulldowns are released and stay so): the host's other accesses play no part,
and at the last rising edge the operation has completed with the byte or with FramingViolation. The
tick of the write has no micro-step of its own (log entry 1, DEDUCED). -/
def Obligations.RecvReturnsTheWordTheDeviceSends : Prop :=
  ∀ (s : State) (i : Input) (ins rest : List Input) (ls : List Lines) (re : Bool) (w : FrameWord)
    (wait : Nat) (lo hi : Nat → Nat),
    Inv s → s.status.busy = false → s.inputs = i :: ins ++ rest → i.rst = false →
    decode i.access = .ok (.recv re) → Plays ins ls → LevelsAre s ls (frameLevels w wait lo hi) →
    ∃ t : State, run (ins.length + 1) s = .next t
      ∧ Completed
          (if rxCheck s.vflags w then { res0 := (rxData w).setWidth 16 }
           else { err := .framingViolation, res0 := 0 }) s t
      ∧ t.inputs = rest

/-- 41_link.md R115, R116, R119, R121; 70_reset_and_hazards.md R190, R197: SEND, from its `CMD` write on,
under a device that gives eleven clock pulses after the request-to-send, with any length of every phase
and any data level, on a wired clock (its pulldown released as in the idle engine) or on the pin itself: it
completes without error and leaves both lines released. The tick of the write has
no micro-step of its own (log entry 1, DEDUCED). -/
def Obligations.SendCompletesAfterElevenPulses : Prop :=
  ∀ (s : State) (i : Input) (pre mid rest : List Input) (ls ms : List Lines) (re : Bool)
    (wait : Nat) (lo hi : Nat → Nat),
    Inv s → s.status.busy = false → s.inputs = i :: (pre ++ mid) ++ rest → i.rst = false →
    decode i.access = .ok (.send re) →
    pre.length = s.cfg.rtsHoldUs * s.cfg.ticksPerUs + 3 → Plays pre ls → Plays mid ms →
    ClockIs s ms (transferClock wait lo hi) →
    ∃ t : State, run (pre.length + mid.length + 1) s = .next t ∧ Completed {} s t
      ∧ t.txbyte = s.arg0.setWidth 8 ∧ t.inputs = rest

/-- 41_link.md R100, R111, R118; 42_commands.md R130, R149: the micro-steps of an operation in flight, at
the entry of a link call, carry out its link calls: whatever the length of every clock phase, playing
the lines of the calls brings the engine to the state that the sequence of calls says. -/
def Obligations.MicroStepsCarryOutTheLinkCalls : Prop :=
  ∀ (n : Nat) (ws : List FrameWord) (s : State) (ins rest : List Input) (ls : List Lines),
    s.status.busy = true → (s.lph = .rxLow → s.shift = 0 ∧ s.biti = 0) →
    s.inputs = ins ++ rest → Plays ins ls → CallLines n ws s ls →
    ∃ t : State, run ins.length s = .next t ∧ t.engine = (callRun n ws s).2.engine
      ∧ t.inputs = rest

/-! ## Completion, errors and the sequencer -/

/-- 41_link.md R102, 60_exceptions.md R167: `post` (and so `raise`) writes exactly this. -/
def Obligations.PostWritesTheReportAndIdles : Prop :=
  ∀ (s : State) (e : ErrCode) (a b : Half) (n : Byte) (v : Bool),
    post { err := e, res0 := a, res1 := b, astep := n, ackfv := v } s = { s with
      res0 := a
      res1 := b
      status := { busy := false, done := true, err := e, ackfv := v, astep := n }
      cstate := .idle
      lph := .idle }

/-- 41_link.md R109, 42_commands.md R148, 60_exceptions.md R162: what RECV and the response read of
KRESET, KRESEND and KECHO do with the byte or the violation. -/
def Obligations.ReceivedByteOrViolationIsPosted : Prop :=
  ∀ (s : State) (b : Byte), s.cstate = .link ∨ s.cstate = .awaitResp →
    afterRecv (.ok b) s = post { res0 := b.setWidth 16 } s
    ∧ afterRecv .err s = post { err := .framingViolation, res0 := 0 } s

/-- 42_commands.md R131, 60_exceptions.md R163: an awaited byte other than a valid 0xFA ends the command
at once with ProtocolAbort; the step is 0 for the first ACK and `j + 1` for the ACK of item `j`. -/
def Obligations.FailedAckAbortsTheCommand : Prop :=
  ∀ (s : State) (b : Byte), b ≠ 0xFA →
    (s.cstate = .awaitFirstAck →
      afterRecv (.ok b) s = post { err := .protocolAbort, res0 := b.setWidth 16, astep := 0 } s
      ∧ afterRecv .err s = post { err := .protocolAbort, res0 := 0, astep := 0, ackfv := true } s)
    ∧ (s.cstate = .awaitItemAck →
      afterRecv (.ok b) s
        = post { err := .protocolAbort, res0 := b.setWidth 16, astep := s.kidx + 1 } s
      ∧ afterRecv .err s
        = post { err := .protocolAbort, res0 := 0, astep := s.kidx + 1, ackfv := true } s)

/-- 42_commands.md R146: the arrows of the sequencer that follow a send. -/
def Obligations.SequencerArrowsAfterASend : Prop :=
  ∀ s : State,
    (s.cstate = .link ∨ s.cstate = .sendTerm → afterSend s = post {} s)
    ∧ (s.cstate = .sendCmd →
        s.op = CmdOp.kenable.code ∨ s.op = CmdOp.kdisable.code ∨ s.op = CmdOp.kdefault.code →
        afterSend s = post {} s)
    ∧ (s.cstate = .sendCmd →
        s.op = CmdOp.kreset.code ∨ s.op = CmdOp.kresend.code ∨ s.op = CmdOp.kecho.code →
        afterSend s = { s with cstate := .awaitResp, shift := 0, biti := 0, lph := .rxLow })
    ∧ (s.cstate = .sendCmd →
        s.op = CmdOp.kscanset.code ∨ s.op = CmdOp.kkeys.code ∨ s.op = CmdOp.kallkeys.code →
        afterSend s = { s with cstate := .awaitFirstAck, shift := 0, biti := 0, lph := .rxLow })
    ∧ (s.cstate = .sendCmd → s.op = CmdOp.kleds.code →
        afterSend s = startSend (ledByte s) { s with cstate := .sendParam })
    ∧ (s.cstate = .sendCmd → s.op = CmdOp.krate.code →
        afterSend s
          = startSend (controlByte (rateIndex s) (delayIndex s)) { s with cstate := .sendParam })
    ∧ (s.cstate = .sendParam → s.op = CmdOp.kscanset.code ∨ s.op = CmdOp.kleds.code →
        afterSend s = post {} s)
    ∧ (s.cstate = .sendParam → s.op = CmdOp.krate.code →
        afterSend s = post { res0 := chosenRate s, res1 := chosenDelay s } s)
    ∧ (s.cstate = .sendItem →
        afterSend s = { s with cstate := .awaitItemAck, shift := 0, biti := 0, lph := .rxLow })

/-- 42_commands.md R146: the arrows of the sequencer that follow an ACK. -/
def Obligations.SequencerArrowsAfterAnAck : Prop :=
  ∀ s : State,
    (s.cstate = .awaitFirstAck → s.op = CmdOp.kscanset.code →
      afterRecv (.ok 0xFA) s = startSend (s.arg0.setWidth 8) { s with cstate := .sendParam })
    ∧ (s.cstate = .awaitFirstAck → s.op = CmdOp.kallkeys.code →
      afterRecv (.ok 0xFA) s = startSend s.cfg.codeEcho { s with cstate := .sendTerm })
    ∧ (s.cstate = .awaitFirstAck → s.op = CmdOp.kkeys.code → s.keylen = 0 →
      afterRecv (.ok 0xFA) s = startSend s.cfg.codeEcho { s with cstate := .sendTerm })
    ∧ (s.cstate = .awaitFirstAck → s.op = CmdOp.kkeys.code → s.keylen ≠ 0 →
      afterRecv (.ok 0xFA) s
        = startSend (Memory.read s.keybuf 0) { s with cstate := .sendItem, kidx := 0 })
    ∧ (s.cstate = .awaitItemAck → s.kidx.toNat + 1 < s.keylen.toNat →
      afterRecv (.ok 0xFA) s = startSend (Memory.read s.keybuf (s.kidx.toNat + 1))
        { s with cstate := .sendItem, kidx := s.kidx + 1 })
    ∧ (s.cstate = .awaitItemAck → s.kidx.toNat + 1 = s.keylen.toNat →
      afterRecv (.ok 0xFA) s = startSend s.cfg.codeEcho { s with cstate := .sendTerm })

/-! ## Whole commands, as sequences of link calls (42_commands.md R149) -/

/-- 42_commands.md R133 to R135, R149: the fire-and-forget commands send one byte, read nothing and
complete. -/
def Obligations.FireAndForgetCommandsSendOneByte : Prop :=
  ∀ (s u : State) (re : Bool) (ws : List FrameWord) (n : Nat), Inv s → s.status.busy = false →
    1 ≤ n →
    (exec (.kenable re) s = .next u →
      (callRun n ws u).1 = [s.cfg.codeEnable] ∧ Completed {} s (callRun n ws u).2)
    ∧ (exec (.kdisable re) s = .next u →
      (callRun n ws u).1 = [s.cfg.codeDisable] ∧ Completed {} s (callRun n ws u).2)
    ∧ (exec (.kdefault re) s = .next u →
      (callRun n ws u).1 = [s.cfg.codeSetDefault] ∧ Completed {} s (callRun n ws u).2)

/-- 42_commands.md R136 to R138, R148, R149: KRESET, KRESEND and KECHO send one byte and return the one
byte that comes, compared with nothing, or FramingViolation. -/
def Obligations.ResponseCommandsReturnOneByte : Prop :=
  ∀ (s u : State) (re : Bool) (w : FrameWord) (ws : List FrameWord) (n : Nat) (r : Report), Inv s →
    s.status.busy = false → 2 ≤ n →
    r = (if rxCheck s.vflags w then { res0 := (rxData w).setWidth 16 }
         else { err := .framingViolation, res0 := 0 }) →
    (exec (.kreset re) s = .next u →
      (callRun n (w :: ws) u).1 = [s.cfg.codeReset] ∧ Completed r s (callRun n (w :: ws) u).2)
    ∧ (exec (.kresend re) s = .next u →
      (callRun n (w :: ws) u).1 = [s.cfg.codeResend] ∧ Completed r s (callRun n (w :: ws) u).2)
    ∧ (exec (.kecho re) s = .next u →
      (callRun n (w :: ws) u).1 = [s.cfg.codeEcho] ∧ Completed r s (callRun n (w :: ws) u).2)

/-- 42_commands.md R139, R141, R149: KLEDS and KRATE send command and parameter byte back to back and
await nothing; KRATE returns the two values chosen. -/
def Obligations.LedsAndRateSendTwoBytesWithoutWaiting : Prop :=
  ∀ (s u : State) (re : Bool) (ws : List FrameWord) (n : Nat), Inv s → s.status.busy = false →
    2 ≤ n →
    (exec (.kleds re) s = .next u →
      (callRun n ws u).1 = [s.cfg.codeSetLeds, s.cfg.ledPack[(s.arg0 &&& 7).toNat]?.getD 0]
      ∧ Completed {} s (callRun n ws u).2)
    ∧ (exec (.krate re) s = .next u →
      (callRun n ws u).1 = [s.cfg.codeSetRate,
        controlByte (selectClosest s.cfg.rateTable s.arg0)
          (selectClosest Config.delayTable s.arg1)]
      ∧ Completed
          { res0 := s.cfg.rateTable[selectClosest s.cfg.rateTable s.arg0]?.getD 0
            res1 := Config.delayTable[selectClosest Config.delayTable s.arg1]?.getD 0 } s
          (callRun n ws u).2)

/-- 42_commands.md R140, R131, R149; 95_test_vectors.md E7: KSCANSET with 1, 2 or 3 sends the parameter
after an ACK, and after anything else aborts at step 0 without sending it. -/
def Obligations.KscansetSendsItsParameterOnlyAfterAnAck : Prop :=
  ∀ (s u : State) (re : Bool) (w : FrameWord) (ws : List FrameWord) (n : Nat), Inv s →
    s.status.busy = false → 1 ≤ s.arg0.toNat → s.arg0.toNat ≤ 3 → 3 ≤ n →
    exec (.kscanset re) s = .next u →
    (IsAck s w → (callRun n (w :: ws) u).1 = [s.cfg.codeScanSet, s.arg0.setWidth 8]
      ∧ Completed {} s (callRun n (w :: ws) u).2)
    ∧ (¬ IsAck s w → (callRun n (w :: ws) u).1 = [s.cfg.codeScanSet]
      ∧ Completed (abortReport s.vflags 0 w) s (callRun n (w :: ws) u).2)

/-- 42_commands.md R145, R131, R149: KALLKEYS sends its selector and, after an ACK, the terminator; after
anything else it aborts at step 0 without it. -/
def Obligations.KallkeysSendsSelectorThenTerminator : Prop :=
  ∀ (s u : State) (re : Bool) (w : FrameWord) (ws : List FrameWord) (n : Nat) (sel : Byte), Inv s →
    s.status.busy = false → 3 ≤ n → exec (.kallkeys re) s = .next u →
    sel = (if s.arg0.getLsbD 0 then
        (if s.arg0.getLsbD 1 then s.cfg.keyselAll.ib1it1 else s.cfg.keyselAll.ib1it0)
      else (if s.arg0.getLsbD 1 then s.cfg.keyselAll.ib0it1 else s.cfg.keyselAll.ib0it0)) →
    (IsAck s w → (callRun n (w :: ws) u).1 = [sel, s.cfg.codeEcho]
      ∧ Completed {} s (callRun n (w :: ws) u).2)
    ∧ (¬ IsAck s w → (callRun n (w :: ws) u).1 = [sel]
      ∧ Completed (abortReport s.vflags 0 w) s (callRun n (w :: ws) u).2)

/-- 42_commands.md R144, R149: KKEYS with every byte acknowledged sends the selector, the list
`KEYBUF[0 .. KEYLEN-1]` in order and the terminator, and completes without error. -/
def Obligations.KkeysSendsSelectorListTerminator : Prop :=
  ∀ (s u : State) (re : Bool) (acks ws : List FrameWord) (n : Nat), Inv s → s.status.busy = false →
    s.keylen.toNat ≤ s.cfg.keybufDepth → exec (.kkeys re) s = .next u →
    acks.length = s.keylen.toNat + 1 → (∀ w ∈ acks, IsAck s w) → 3 + 2 * s.keylen.toNat ≤ n →
    (callRun n (acks ++ ws) u).1
        = s.cfg.keyselOne.get (s.arg0.getLsbD 0) (s.arg0.getLsbD 1)
          :: (s.keybuf.take s.keylen.toNat ++ [s.cfg.codeEcho])
      ∧ Completed {} s (callRun n (acks ++ ws) u).2

/-- 42_commands.md R144, R131, R163; 95_test_vectors.md E6: KKEYS whose ACK number `j` fails (0 the
selector's, `j` that of item `j - 1`) has sent the selector and the first `j` items, sends no further
byte, neither item nor terminator, and reports the step. -/
def Obligations.KkeysAbortsAtTheFirstFailedAck : Prop :=
  ∀ (s u : State) (re : Bool) (acks ws : List FrameWord) (w : FrameWord) (n : Nat), Inv s →
    s.status.busy = false → s.keylen.toNat ≤ s.cfg.keybufDepth → exec (.kkeys re) s = .next u →
    acks.length ≤ s.keylen.toNat → (∀ a ∈ acks, IsAck s a) → ¬ IsAck s w →
    2 + 2 * acks.length ≤ n →
    (callRun n (acks ++ w :: ws) u).1
        = s.cfg.keyselOne.get (s.arg0.getLsbD 0) (s.arg0.getLsbD 1) :: s.keybuf.take acks.length
      ∧ Completed (abortReport s.vflags (BitVec.ofNat 8 acks.length) w) s
          (callRun n (acks ++ w :: ws) u).2

/-- 41_link.md R116, R118; 42_commands.md R149: under the lines of its link calls, the bytes that a run puts
on the wire (the data line in each such send is at the bits of that byte, see
`WiredDataLineCarriesTheSentBit`) are the bytes of the sequence of calls, in order. -/
def Obligations.RunPutsTheBytesOfItsLinkCallsOnTheWire : Prop :=
  ∀ (n : Nat) (ws : List FrameWord) (s : State) (ins rest : List Input) (ls : List Lines),
    s.status.busy = true → (s.lph = .rxLow → s.shift = 0 ∧ s.biti = 0) →
    s.inputs = ins ++ rest → Plays ins ls → CallLines n ws s ls →
    bytesPut ins.length s = (callRun n ws s).1
end

