-- ==== Sys2Proof/Laws/Codec.lean ====
section
/-! SUPPORT. What the codec functions do, bit by bit. -/

namespace Sys2Proof.Machine

theorem getLsbD_setFrameBit (w : FrameWord) (i j : Nat) (b : Bool) (hj : j < 11) :
    (setFrameBit w i b).getLsbD j = if j = i then b else w.getLsbD j := by
  by_cases h : j = i
  · subst h
    cases b <;> simp [setFrameBit, hj]
  · cases b <;> simp [setFrameBit, hj, h]

/-- The word after the samples of bits `0 .. n - 1`. -/
theorem getLsbD_foldl_setFrameBit (f : Nat → Bool) (n j : Nat) (hj : j < 11) (w : FrameWord) :
    ((List.range n).foldl (fun w i => setFrameBit w i (f i)) w).getLsbD j
      = if j < n then f j else w.getLsbD j := by
  induction n with
  | zero => simp
  | succ n ih =>
    rw [List.range_succ, List.foldl_append]
    simp only [List.foldl_cons, List.foldl_nil]
    rw [getLsbD_setFrameBit _ _ _ _ hj, ih]
    by_cases h : j = n
    · subst h; simp
    · by_cases h2 : j < n
      · simp [h, h2, Nat.lt_succ_of_lt h2]
      · have : ¬ j < n + 1 := by omega
        simp [h, h2, this]

theorem getLsbD_rxAssemble (f : Nat → Bool) {j : Nat} (hj : j < 11) :
    (rxAssemble f).getLsbD j = f j := by
  rw [rxAssemble, getLsbD_foldl_setFrameBit _ _ _ hj]
  simp [hj]

theorem getLsbD_rxData (w : FrameWord) {j : Nat} (hj : j < 8) :
    (rxData w).getLsbD j = w.getLsbD (j + 1) := by
  simp [rxData, hj, Nat.add_comm]

theorem txBit_data (d : Byte) {k : Nat} (h1 : 1 ≤ k) (h8 : k ≤ 8) :
    txBit d k = some (d.getLsbD (k - 1)) := by
  simp [txBit, h1, h8]

@[simp] theorem txBit_parity (d : Byte) : txBit d 9 = some (computeParity d) := by simp [txBit]

@[simp] theorem txBit_stop (d : Byte) : txBit d 10 = some true := by simp [txBit]

@[simp] theorem txBit_ack (d : Byte) : txBit d 11 = none := by simp [txBit]

/-- In periods 1 to 10 a bit is defined, and it is the one on the wire. -/
theorem txBit_eq_txWire (d : Byte) {k : Nat} (h1 : 1 ≤ k) (h10 : k ≤ 10) :
    txBit d k = some (txWire d k) := by
  have : k ≤ 8 ∨ k = 9 ∨ k = 10 := by omega
  rcases this with h | rfl | rfl
  · simp [txWire, txBit_data d h1 h]
  · simp [txWire]
  · simp [txWire]

@[simp] theorem txWire_start (d : Byte) : txWire d 0 = false := by simp [txWire, txBit]

@[simp] theorem txWire_stop (d : Byte) : txWire d 10 = true := by simp [txWire]

theorem rxCheck_iff (f : BitVec 3) (w : FrameWord) :
    rxCheck f w = true ↔
      (f.getLsbD 0 = true → w.getLsbD 0 = false) ∧ (f.getLsbD 1 = true → w.getLsbD 10 = true)
        ∧ (f.getLsbD 2 = true → validateParity w = true) := by
  unfold rxCheck vstart vstop vparity
  generalize f.getLsbD 0 = a, f.getLsbD 1 = b, f.getLsbD 2 = c, w.getLsbD 0 = x,
    w.getLsbD 10 = y, validateParity w = z
  revert a b c x y z
  decide

end Sys2Proof.Machine
end

