-- ==== Sys2Proof/Laws/Decode.lean ====
section
/-! SUPPORT. Fields of an access word and the two directions between opcodes and operations. -/

namespace Sys2Proof

namespace Access

variable (w r : Bool) (i : BitVec 8) (v : Word)

/-- Every bit of an access made from its fields. -/
theorem getLsbD_make (k : Nat) :
    (make w r i v).getLsbD k =
      if k < 32 then v.getLsbD k else if k < 40 then i.getLsbD (k - 32)
      else if k = 40 then r else if k = 41 then w else false := by
  have h1 := BitVec.getLsbD_append (x := BitVec.ofBool w ++ BitVec.ofBool r ++ i) (y := v) (i := k)
  have h2 := BitVec.getLsbD_append (x := BitVec.ofBool w ++ BitVec.ofBool r) (y := i) (i := k - 32)
  have h3 := BitVec.getLsbD_append (x := BitVec.ofBool w) (y := BitVec.ofBool r) (i := k - 32 - 8)
  rw [h2, h3] at h1
  refine Eq.trans h1 ?_
  by_cases a : k < 32
  · simp [a]
  · by_cases b : k < 40
    · simp [a, b, show k - 32 < 8 by omega]
    · by_cases c : k = 40
      · subst c; simp
      · by_cases d : k = 41
        · subst d; simp
        · simp [a, b, c, d, show ¬ k - 32 < 8 by omega, show ¬ k - 32 - 8 < 1 by omega,
            show k - 32 - 8 - 1 ≠ 0 by omega]

@[simp] theorem we_make : we (make w r i v) = w := (getLsbD_make w r i v 41).trans (by simp)

@[simp] theorem re_make : re (make w r i v) = r := (getLsbD_make w r i v 40).trans (by simp)

@[simp] theorem idx_make : idx (make w r i v) = i := by
  ext k hk
  simp [idx, getLsbD_make, hk, show 32 + k < 40 by omega]

@[simp] theorem wdata_make : wdata (make w r i v) = v := by
  ext k hk
  simp [wdata, getLsbD_make, hk]

theorem getLsbD_make_low {k : Nat} (hk : k < 32) : (make w r i v).getLsbD k = v.getLsbD k := by
  simp [getLsbD_make, hk]

@[simp] theorem opc_make : opc (make w r i v) = v.setWidth 8 := by
  ext k hk
  simp [opc, getLsbD_make, show k < 32 by omega]

end Access

@[simp] theorem CmdOp.ofCode?_code (op : CmdOp) : CmdOp.ofCode? op.code = some op := by
  cases op <;> rfl

/-- Only the opcode of an operation names it. -/
theorem CmdOp.code_of_ofCode? {c : Byte} {op : CmdOp} (h : CmdOp.ofCode? c = some op) :
    c = op.code := by
  have h := List.find?_some h
  exact (eq_of_beq h).symm

theorem CmdOp.ofCode?_eq_some {c : Byte} {op : CmdOp} :
    CmdOp.ofCode? c = some op ↔ c = op.code :=
  ⟨CmdOp.code_of_ofCode?, fun h => h ▸ CmdOp.ofCode?_code op⟩

/-- The reserved opcodes (30_encoding.md R64(a)). -/
theorem CmdOp.ofCode?_eq_none {c : Byte} :
    CmdOp.ofCode? c = none ↔
      c.toNat = 0 ∨ (4 ≤ c.toNat ∧ c.toNat ≤ 0x0F) ∨ 0x1B ≤ c.toNat := by
  revert c
  decide +kernel

/-- The read strobe and the operation can be read back from the instruction. -/
theorem CmdOp.instr_inj {op op' : CmdOp} {re re' : Bool} (h : op.instr re = op'.instr re') :
    op = op' ∧ re = re' := by
  cases op <;> cases op' <;> simp_all [CmdOp.instr]

theorem decode_encodeCmd (re : Bool) (op : CmdOp) :
    decode (encodeCmd re op) = .ok (op.instr re) := by
  have h : (op.code.setWidth 32).setWidth 8 = op.code := by cases op <;> rfl
  simp [decode, encodeCmd, h]

/-- What the decoder answers, case by case on the fields of the access (30_encoding.md R60 to R64). -/
inductive DecodeCases (a : AccessWord) : Except OtherAccess Instr → Prop where
  | cmd (hw : Access.we a = true) (hi : Access.idx a = idxCmd) (op : CmdOp)
      (ho : Access.opc a = op.code) : DecodeCases a (.ok (op.instr (Access.re a)))
  | illegal (hw : Access.we a = true) (hi : Access.idx a = idxCmd)
      (ho : CmdOp.ofCode? (Access.opc a) = none) :
      DecodeCases a (.error (.illegalOpcode (Access.re a) (Access.opc a)))
  | setflags (hw : Access.we a = true) (hi : Access.idx a = idxVflags) :
      DecodeCases a
        (.ok (.setflags (Access.re a) (a.getLsbD 0) (a.getLsbD 1) (a.getLsbD 2)))
  | write (hw : Access.we a = true) (hc : Access.idx a ≠ idxCmd) (hv : Access.idx a ≠ idxVflags) :
      DecodeCases a (.error (.writeReg (Access.re a) (Access.idx a) (Access.wdata a)))
  | getflags (hw : Access.we a = false) (hr : Access.re a = true) (hi : Access.idx a = idxVflags) :
      DecodeCases a (.ok .getflags)
  | read (hw : Access.we a = false) (hr : Access.re a = true) (hi : Access.idx a ≠ idxVflags) :
      DecodeCases a (.error (.readReg (Access.idx a)))
  | nothing (hw : Access.we a = false) (hr : Access.re a = false) :
      DecodeCases a (.error .noAccess)

theorem decode_cases (a : AccessWord) : DecodeCases a (decode a) := by
  unfold decode
  split
  next hw =>
    split
    next hi =>
      split
      next op ho => exact .cmd hw hi op (CmdOp.code_of_ofCode? ho)
      next ho => exact .illegal hw hi ho
    next hc =>
      split
      next hi => exact .setflags hw hi
      next hv => exact .write hw hc hv
  next hw =>
    have hw := eq_false_of_ne_true hw
    split
    next hr =>
      split
      next hi => exact .getflags hw hr hi
      next hi => exact .read hw hr hi
    next hr => exact .nothing hw (eq_false_of_ne_true hr)

end Sys2Proof
end

