-- ==== Sys2Proof/Laws/State.lean ====
section
/-! SUPPORT. One lemma per field per update of State, so that no later proof unfolds a record update. -/

namespace Sys2Proof.Machine

variable (s : State)

/-! The tick takes its input. -/

@[simp] theorem advance_clkPd : s.advance.clkPd = s.clkPd := rfl
@[simp] theorem advance_dataPd : s.advance.dataPd = s.dataPd := rfl
@[simp] theorem advance_vflags : s.advance.vflags = s.vflags := rfl
@[simp] theorem advance_status : s.advance.status = s.status := rfl
@[simp] theorem advance_arg0 : s.advance.arg0 = s.arg0 := rfl
@[simp] theorem advance_arg1 : s.advance.arg1 = s.arg1 := rfl
@[simp] theorem advance_res0 : s.advance.res0 = s.res0 := rfl
@[simp] theorem advance_res1 : s.advance.res1 = s.res1 := rfl
@[simp] theorem advance_keylen : s.advance.keylen = s.keylen := rfl
@[simp] theorem advance_keybuf : s.advance.keybuf = s.keybuf := rfl
@[simp] theorem advance_lph : s.advance.lph = s.lph := rfl
@[simp] theorem advance_biti : s.advance.biti = s.biti := rfl
@[simp] theorem advance_shift : s.advance.shift = s.shift := rfl
@[simp] theorem advance_txbyte : s.advance.txbyte = s.txbyte := rfl
@[simp] theorem advance_hold : s.advance.hold = s.hold := rfl
@[simp] theorem advance_op : s.advance.op = s.op := rfl
@[simp] theorem advance_cstate : s.advance.cstate = s.cstate := rfl
@[simp] theorem advance_kidx : s.advance.kidx = s.kidx := rfl
@[simp] theorem advance_rdata : s.advance.rdata = none := rfl
@[simp] theorem advance_inputs : s.advance.inputs = s.inputs.tail := rfl
@[simp] theorem advance_ticks : s.advance.ticks = s.ticks + 1 := rfl
@[simp] theorem advance_cfg : s.advance.cfg = s.cfg := rfl

/-! Acceptance. -/

@[simp] theorem accept_clkPd (opc : Byte) : (accept opc s).clkPd = s.clkPd := rfl
@[simp] theorem accept_dataPd (opc : Byte) : (accept opc s).dataPd = s.dataPd := rfl
@[simp] theorem accept_vflags (opc : Byte) : (accept opc s).vflags = s.vflags := rfl
@[simp] theorem accept_status (opc : Byte) :
    (accept opc s).status = { s.status with done := false, err := .noError, ackfv := false, astep := 0 } := rfl
@[simp] theorem accept_arg0 (opc : Byte) : (accept opc s).arg0 = s.arg0 := rfl
@[simp] theorem accept_arg1 (opc : Byte) : (accept opc s).arg1 = s.arg1 := rfl
@[simp] theorem accept_res0 (opc : Byte) : (accept opc s).res0 = 0 := rfl
@[simp] theorem accept_res1 (opc : Byte) : (accept opc s).res1 = 0 := rfl
@[simp] theorem accept_keylen (opc : Byte) : (accept opc s).keylen = s.keylen := rfl
@[simp] theorem accept_keybuf (opc : Byte) : (accept opc s).keybuf = s.keybuf := rfl
@[simp] theorem accept_lph (opc : Byte) : (accept opc s).lph = s.lph := rfl
@[simp] theorem accept_biti (opc : Byte) : (accept opc s).biti = s.biti := rfl
@[simp] theorem accept_shift (opc : Byte) : (accept opc s).shift = s.shift := rfl
@[simp] theorem accept_txbyte (opc : Byte) : (accept opc s).txbyte = s.txbyte := rfl
@[simp] theorem accept_hold (opc : Byte) : (accept opc s).hold = s.hold := rfl
@[simp] theorem accept_op (opc : Byte) : (accept opc s).op = opc := rfl
@[simp] theorem accept_cstate (opc : Byte) : (accept opc s).cstate = s.cstate := rfl
@[simp] theorem accept_kidx (opc : Byte) : (accept opc s).kidx = s.kidx := rfl
@[simp] theorem accept_rdata (opc : Byte) : (accept opc s).rdata = s.rdata := rfl
@[simp] theorem accept_inputs (opc : Byte) : (accept opc s).inputs = s.inputs := rfl
@[simp] theorem accept_ticks (opc : Byte) : (accept opc s).ticks = s.ticks := rfl
@[simp] theorem accept_cfg (opc : Byte) : (accept opc s).cfg = s.cfg := rfl

/-! Completion. -/

@[simp] theorem post_clkPd (r : Report) : (post r s).clkPd = s.clkPd := rfl
@[simp] theorem post_dataPd (r : Report) : (post r s).dataPd = s.dataPd := rfl
@[simp] theorem post_vflags (r : Report) : (post r s).vflags = s.vflags := rfl
@[simp] theorem post_status (r : Report) :
    (post r s).status = { busy := false, done := true, err := r.err, ackfv := r.ackfv, astep := r.astep } := rfl
@[simp] theorem post_arg0 (r : Report) : (post r s).arg0 = s.arg0 := rfl
@[simp] theorem post_arg1 (r : Report) : (post r s).arg1 = s.arg1 := rfl
@[simp] theorem post_res0 (r : Report) : (post r s).res0 = r.res0 := rfl
@[simp] theorem post_res1 (r : Report) : (post r s).res1 = r.res1 := rfl
@[simp] theorem post_keylen (r : Report) : (post r s).keylen = s.keylen := rfl
@[simp] theorem post_keybuf (r : Report) : (post r s).keybuf = s.keybuf := rfl
@[simp] theorem post_lph (r : Report) : (post r s).lph = .idle := rfl
@[simp] theorem post_biti (r : Report) : (post r s).biti = s.biti := rfl
@[simp] theorem post_shift (r : Report) : (post r s).shift = s.shift := rfl
@[simp] theorem post_txbyte (r : Report) : (post r s).txbyte = s.txbyte := rfl
@[simp] theorem post_hold (r : Report) : (post r s).hold = s.hold := rfl
@[simp] theorem post_op (r : Report) : (post r s).op = s.op := rfl
@[simp] theorem post_cstate (r : Report) : (post r s).cstate = .idle := rfl
@[simp] theorem post_kidx (r : Report) : (post r s).kidx = s.kidx := rfl
@[simp] theorem post_rdata (r : Report) : (post r s).rdata = s.rdata := rfl
@[simp] theorem post_inputs (r : Report) : (post r s).inputs = s.inputs := rfl
@[simp] theorem post_ticks (r : Report) : (post r s).ticks = s.ticks := rfl
@[simp] theorem post_cfg (r : Report) : (post r s).cfg = s.cfg := rfl

/-! The operation is in flight. -/

@[simp] theorem begin_clkPd (c : SeqState) : (begin c s).clkPd = s.clkPd := rfl
@[simp] theorem begin_dataPd (c : SeqState) : (begin c s).dataPd = s.dataPd := rfl
@[simp] theorem begin_vflags (c : SeqState) : (begin c s).vflags = s.vflags := rfl
@[simp] theorem begin_status (c : SeqState) : (begin c s).status = { s.status with busy := true } :=
    rfl
@[simp] theorem begin_arg0 (c : SeqState) : (begin c s).arg0 = s.arg0 := rfl
@[simp] theorem begin_arg1 (c : SeqState) : (begin c s).arg1 = s.arg1 := rfl
@[simp] theorem begin_res0 (c : SeqState) : (begin c s).res0 = s.res0 := rfl
@[simp] theorem begin_res1 (c : SeqState) : (begin c s).res1 = s.res1 := rfl
@[simp] theorem begin_keylen (c : SeqState) : (begin c s).keylen = s.keylen := rfl
@[simp] theorem begin_keybuf (c : SeqState) : (begin c s).keybuf = s.keybuf := rfl
@[simp] theorem begin_lph (c : SeqState) : (begin c s).lph = s.lph := rfl
@[simp] theorem begin_biti (c : SeqState) : (begin c s).biti = s.biti := rfl
@[simp] theorem begin_shift (c : SeqState) : (begin c s).shift = s.shift := rfl
@[simp] theorem begin_txbyte (c : SeqState) : (begin c s).txbyte = s.txbyte := rfl
@[simp] theorem begin_hold (c : SeqState) : (begin c s).hold = s.hold := rfl
@[simp] theorem begin_op (c : SeqState) : (begin c s).op = s.op := rfl
@[simp] theorem begin_cstate (c : SeqState) : (begin c s).cstate = c := rfl
@[simp] theorem begin_kidx (c : SeqState) : (begin c s).kidx = s.kidx := rfl
@[simp] theorem begin_rdata (c : SeqState) : (begin c s).rdata = s.rdata := rfl
@[simp] theorem begin_inputs (c : SeqState) : (begin c s).inputs = s.inputs := rfl
@[simp] theorem begin_ticks (c : SeqState) : (begin c s).ticks = s.ticks := rfl
@[simp] theorem begin_cfg (c : SeqState) : (begin c s).cfg = s.cfg := rfl

/-! The next sequencer state. -/

@[simp] theorem enter_clkPd (c : SeqState) : (enter c s).clkPd = s.clkPd := rfl
@[simp] theorem enter_dataPd (c : SeqState) : (enter c s).dataPd = s.dataPd := rfl
@[simp] theorem enter_vflags (c : SeqState) : (enter c s).vflags = s.vflags := rfl
@[simp] theorem enter_status (c : SeqState) : (enter c s).status = s.status := rfl
@[simp] theorem enter_arg0 (c : SeqState) : (enter c s).arg0 = s.arg0 := rfl
@[simp] theorem enter_arg1 (c : SeqState) : (enter c s).arg1 = s.arg1 := rfl
@[simp] theorem enter_res0 (c : SeqState) : (enter c s).res0 = s.res0 := rfl
@[simp] theorem enter_res1 (c : SeqState) : (enter c s).res1 = s.res1 := rfl
@[simp] theorem enter_keylen (c : SeqState) : (enter c s).keylen = s.keylen := rfl
@[simp] theorem enter_keybuf (c : SeqState) : (enter c s).keybuf = s.keybuf := rfl
@[simp] theorem enter_lph (c : SeqState) : (enter c s).lph = s.lph := rfl
@[simp] theorem enter_biti (c : SeqState) : (enter c s).biti = s.biti := rfl
@[simp] theorem enter_shift (c : SeqState) : (enter c s).shift = s.shift := rfl
@[simp] theorem enter_txbyte (c : SeqState) : (enter c s).txbyte = s.txbyte := rfl
@[simp] theorem enter_hold (c : SeqState) : (enter c s).hold = s.hold := rfl
@[simp] theorem enter_op (c : SeqState) : (enter c s).op = s.op := rfl
@[simp] theorem enter_cstate (c : SeqState) : (enter c s).cstate = c := rfl
@[simp] theorem enter_kidx (c : SeqState) : (enter c s).kidx = s.kidx := rfl
@[simp] theorem enter_rdata (c : SeqState) : (enter c s).rdata = s.rdata := rfl
@[simp] theorem enter_inputs (c : SeqState) : (enter c s).inputs = s.inputs := rfl
@[simp] theorem enter_ticks (c : SeqState) : (enter c s).ticks = s.ticks := rfl
@[simp] theorem enter_cfg (c : SeqState) : (enter c s).cfg = s.cfg := rfl

/-! INIT's pulldowns. -/

@[simp] theorem releasePulldowns_clkPd : (releasePulldowns s).clkPd = false := rfl
@[simp] theorem releasePulldowns_dataPd : (releasePulldowns s).dataPd = false := rfl
@[simp] theorem releasePulldowns_vflags : (releasePulldowns s).vflags = s.vflags := rfl
@[simp] theorem releasePulldowns_status : (releasePulldowns s).status = s.status := rfl
@[simp] theorem releasePulldowns_arg0 : (releasePulldowns s).arg0 = s.arg0 := rfl
@[simp] theorem releasePulldowns_arg1 : (releasePulldowns s).arg1 = s.arg1 := rfl
@[simp] theorem releasePulldowns_res0 : (releasePulldowns s).res0 = s.res0 := rfl
@[simp] theorem releasePulldowns_res1 : (releasePulldowns s).res1 = s.res1 := rfl
@[simp] theorem releasePulldowns_keylen : (releasePulldowns s).keylen = s.keylen := rfl
@[simp] theorem releasePulldowns_keybuf : (releasePulldowns s).keybuf = s.keybuf := rfl
@[simp] theorem releasePulldowns_lph : (releasePulldowns s).lph = s.lph := rfl
@[simp] theorem releasePulldowns_biti : (releasePulldowns s).biti = s.biti := rfl
@[simp] theorem releasePulldowns_shift : (releasePulldowns s).shift = s.shift := rfl
@[simp] theorem releasePulldowns_txbyte : (releasePulldowns s).txbyte = s.txbyte := rfl
@[simp] theorem releasePulldowns_hold : (releasePulldowns s).hold = s.hold := rfl
@[simp] theorem releasePulldowns_op : (releasePulldowns s).op = s.op := rfl
@[simp] theorem releasePulldowns_cstate : (releasePulldowns s).cstate = s.cstate := rfl
@[simp] theorem releasePulldowns_kidx : (releasePulldowns s).kidx = s.kidx := rfl
@[simp] theorem releasePulldowns_rdata : (releasePulldowns s).rdata = s.rdata := rfl
@[simp] theorem releasePulldowns_inputs : (releasePulldowns s).inputs = s.inputs := rfl
@[simp] theorem releasePulldowns_ticks : (releasePulldowns s).ticks = s.ticks := rfl
@[simp] theorem releasePulldowns_cfg : (releasePulldowns s).cfg = s.cfg := rfl

/-! Entry of a receive. -/

@[simp] theorem startRecv_clkPd : (startRecv s).clkPd = s.clkPd := rfl
@[simp] theorem startRecv_dataPd : (startRecv s).dataPd = s.dataPd := rfl
@[simp] theorem startRecv_vflags : (startRecv s).vflags = s.vflags := rfl
@[simp] theorem startRecv_status : (startRecv s).status = s.status := rfl
@[simp] theorem startRecv_arg0 : (startRecv s).arg0 = s.arg0 := rfl
@[simp] theorem startRecv_arg1 : (startRecv s).arg1 = s.arg1 := rfl
@[simp] theorem startRecv_res0 : (startRecv s).res0 = s.res0 := rfl
@[simp] theorem startRecv_res1 : (startRecv s).res1 = s.res1 := rfl
@[simp] theorem startRecv_keylen : (startRecv s).keylen = s.keylen := rfl
@[simp] theorem startRecv_keybuf : (startRecv s).keybuf = s.keybuf := rfl
@[simp] theorem startRecv_lph : (startRecv s).lph = .rxLow := rfl
@[simp] theorem startRecv_biti : (startRecv s).biti = 0 := rfl
@[simp] theorem startRecv_shift : (startRecv s).shift = 0 := rfl
@[simp] theorem startRecv_txbyte : (startRecv s).txbyte = s.txbyte := rfl
@[simp] theorem startRecv_hold : (startRecv s).hold = s.hold := rfl
@[simp] theorem startRecv_op : (startRecv s).op = s.op := rfl
@[simp] theorem startRecv_cstate : (startRecv s).cstate = s.cstate := rfl
@[simp] theorem startRecv_kidx : (startRecv s).kidx = s.kidx := rfl
@[simp] theorem startRecv_rdata : (startRecv s).rdata = s.rdata := rfl
@[simp] theorem startRecv_inputs : (startRecv s).inputs = s.inputs := rfl
@[simp] theorem startRecv_ticks : (startRecv s).ticks = s.ticks := rfl
@[simp] theorem startRecv_cfg : (startRecv s).cfg = s.cfg := rfl

/-! Entry of a send. -/

@[simp] theorem startSend_clkPd (d : Byte) : (startSend d s).clkPd = true := rfl
@[simp] theorem startSend_dataPd (d : Byte) : (startSend d s).dataPd = s.dataPd := rfl
@[simp] theorem startSend_vflags (d : Byte) : (startSend d s).vflags = s.vflags := rfl
@[simp] theorem startSend_status (d : Byte) : (startSend d s).status = s.status := rfl
@[simp] theorem startSend_arg0 (d : Byte) : (startSend d s).arg0 = s.arg0 := rfl
@[simp] theorem startSend_arg1 (d : Byte) : (startSend d s).arg1 = s.arg1 := rfl
@[simp] theorem startSend_res0 (d : Byte) : (startSend d s).res0 = s.res0 := rfl
@[simp] theorem startSend_res1 (d : Byte) : (startSend d s).res1 = s.res1 := rfl
@[simp] theorem startSend_keylen (d : Byte) : (startSend d s).keylen = s.keylen := rfl
@[simp] theorem startSend_keybuf (d : Byte) : (startSend d s).keybuf = s.keybuf := rfl
@[simp] theorem startSend_lph (d : Byte) : (startSend d s).lph = .txHold := rfl
@[simp] theorem startSend_biti (d : Byte) : (startSend d s).biti = s.biti := rfl
@[simp] theorem startSend_shift (d : Byte) : (startSend d s).shift = s.shift := rfl
@[simp] theorem startSend_txbyte (d : Byte) : (startSend d s).txbyte = d := rfl
@[simp] theorem startSend_hold (d : Byte) :
    (startSend d s).hold = s.cfg.rtsHoldUs * s.cfg.ticksPerUs := rfl
@[simp] theorem startSend_op (d : Byte) : (startSend d s).op = s.op := rfl
@[simp] theorem startSend_cstate (d : Byte) : (startSend d s).cstate = s.cstate := rfl
@[simp] theorem startSend_kidx (d : Byte) : (startSend d s).kidx = s.kidx := rfl
@[simp] theorem startSend_rdata (d : Byte) : (startSend d s).rdata = s.rdata := rfl
@[simp] theorem startSend_inputs (d : Byte) : (startSend d s).inputs = s.inputs := rfl
@[simp] theorem startSend_ticks (d : Byte) : (startSend d s).ticks = s.ticks := rfl
@[simp] theorem startSend_cfg (d : Byte) : (startSend d s).cfg = s.cfg := rfl

/-! Return of a send. -/

@[simp] theorem sendReturns_clkPd : (sendReturns s).clkPd = false := rfl
@[simp] theorem sendReturns_dataPd : (sendReturns s).dataPd = false := rfl
@[simp] theorem sendReturns_vflags : (sendReturns s).vflags = s.vflags := rfl
@[simp] theorem sendReturns_status : (sendReturns s).status = s.status := rfl
@[simp] theorem sendReturns_arg0 : (sendReturns s).arg0 = s.arg0 := rfl
@[simp] theorem sendReturns_arg1 : (sendReturns s).arg1 = s.arg1 := rfl
@[simp] theorem sendReturns_res0 : (sendReturns s).res0 = s.res0 := rfl
@[simp] theorem sendReturns_res1 : (sendReturns s).res1 = s.res1 := rfl
@[simp] theorem sendReturns_keylen : (sendReturns s).keylen = s.keylen := rfl
@[simp] theorem sendReturns_keybuf : (sendReturns s).keybuf = s.keybuf := rfl
@[simp] theorem sendReturns_lph : (sendReturns s).lph = .idle := rfl
@[simp] theorem sendReturns_biti : (sendReturns s).biti = 11 := rfl
@[simp] theorem sendReturns_shift : (sendReturns s).shift = s.shift := rfl
@[simp] theorem sendReturns_txbyte : (sendReturns s).txbyte = s.txbyte := rfl
@[simp] theorem sendReturns_hold : (sendReturns s).hold = 0 := rfl
@[simp] theorem sendReturns_op : (sendReturns s).op = s.op := rfl
@[simp] theorem sendReturns_cstate : (sendReturns s).cstate = s.cstate := rfl
@[simp] theorem sendReturns_kidx : (sendReturns s).kidx = s.kidx := rfl
@[simp] theorem sendReturns_rdata : (sendReturns s).rdata = s.rdata := rfl
@[simp] theorem sendReturns_inputs : (sendReturns s).inputs = s.inputs := rfl
@[simp] theorem sendReturns_ticks : (sendReturns s).ticks = s.ticks := rfl
@[simp] theorem sendReturns_cfg : (sendReturns s).cfg = s.cfg := rfl

/-! Return of a receive. -/

@[simp] theorem recvReturns_clkPd (w : FrameWord) : (recvReturns w s).clkPd = s.clkPd := rfl
@[simp] theorem recvReturns_dataPd (w : FrameWord) : (recvReturns w s).dataPd = s.dataPd := rfl
@[simp] theorem recvReturns_vflags (w : FrameWord) : (recvReturns w s).vflags = s.vflags := rfl
@[simp] theorem recvReturns_status (w : FrameWord) : (recvReturns w s).status = s.status := rfl
@[simp] theorem recvReturns_arg0 (w : FrameWord) : (recvReturns w s).arg0 = s.arg0 := rfl
@[simp] theorem recvReturns_arg1 (w : FrameWord) : (recvReturns w s).arg1 = s.arg1 := rfl
@[simp] theorem recvReturns_res0 (w : FrameWord) : (recvReturns w s).res0 = s.res0 := rfl
@[simp] theorem recvReturns_res1 (w : FrameWord) : (recvReturns w s).res1 = s.res1 := rfl
@[simp] theorem recvReturns_keylen (w : FrameWord) : (recvReturns w s).keylen = s.keylen := rfl
@[simp] theorem recvReturns_keybuf (w : FrameWord) : (recvReturns w s).keybuf = s.keybuf := rfl
@[simp] theorem recvReturns_lph (w : FrameWord) : (recvReturns w s).lph = .idle := rfl
@[simp] theorem recvReturns_biti (w : FrameWord) : (recvReturns w s).biti = 10 := rfl
@[simp] theorem recvReturns_shift (w : FrameWord) : (recvReturns w s).shift = w := rfl
@[simp] theorem recvReturns_txbyte (w : FrameWord) : (recvReturns w s).txbyte = s.txbyte := rfl
@[simp] theorem recvReturns_hold (w : FrameWord) : (recvReturns w s).hold = s.hold := rfl
@[simp] theorem recvReturns_op (w : FrameWord) : (recvReturns w s).op = s.op := rfl
@[simp] theorem recvReturns_cstate (w : FrameWord) : (recvReturns w s).cstate = s.cstate := rfl
@[simp] theorem recvReturns_kidx (w : FrameWord) : (recvReturns w s).kidx = s.kidx := rfl
@[simp] theorem recvReturns_rdata (w : FrameWord) : (recvReturns w s).rdata = s.rdata := rfl
@[simp] theorem recvReturns_inputs (w : FrameWord) : (recvReturns w s).inputs = s.inputs := rfl
@[simp] theorem recvReturns_ticks (w : FrameWord) : (recvReturns w s).ticks = s.ticks := rfl
@[simp] theorem recvReturns_cfg (w : FrameWord) : (recvReturns w s).cfg = s.cfg := rfl

/-! The engine proper. -/

@[simp] theorem engine_clkPd : s.engine.clkPd = s.clkPd := rfl
@[simp] theorem engine_dataPd : s.engine.dataPd = s.dataPd := rfl
@[simp] theorem engine_vflags : s.engine.vflags = s.vflags := rfl
@[simp] theorem engine_status : s.engine.status = s.status := rfl
@[simp] theorem engine_arg0 : s.engine.arg0 = s.arg0 := rfl
@[simp] theorem engine_arg1 : s.engine.arg1 = s.arg1 := rfl
@[simp] theorem engine_res0 : s.engine.res0 = s.res0 := rfl
@[simp] theorem engine_res1 : s.engine.res1 = s.res1 := rfl
@[simp] theorem engine_keylen : s.engine.keylen = s.keylen := rfl
@[simp] theorem engine_keybuf : s.engine.keybuf = s.keybuf := rfl
@[simp] theorem engine_lph : s.engine.lph = s.lph := rfl
@[simp] theorem engine_biti : s.engine.biti = s.biti := rfl
@[simp] theorem engine_shift : s.engine.shift = s.shift := rfl
@[simp] theorem engine_txbyte : s.engine.txbyte = s.txbyte := rfl
@[simp] theorem engine_hold : s.engine.hold = s.hold := rfl
@[simp] theorem engine_op : s.engine.op = s.op := rfl
@[simp] theorem engine_cstate : s.engine.cstate = s.cstate := rfl
@[simp] theorem engine_kidx : s.engine.kidx = s.kidx := rfl
@[simp] theorem engine_rdata : s.engine.rdata = none := rfl
@[simp] theorem engine_inputs : s.engine.inputs = [] := rfl
@[simp] theorem engine_ticks : s.engine.ticks = 0 := rfl
@[simp] theorem engine_cfg : s.engine.cfg = s.cfg := rfl

/-! The read half of an access. -/

@[simp] theorem readPort_clkPd (re : Bool) (idx : BitVec 8) : (readPort re idx s).clkPd = s.clkPd := by
  cases re <;> rfl
@[simp] theorem readPort_dataPd (re : Bool) (idx : BitVec 8) : (readPort re idx s).dataPd = s.dataPd := by
  cases re <;> rfl
@[simp] theorem readPort_vflags (re : Bool) (idx : BitVec 8) : (readPort re idx s).vflags = s.vflags := by
  cases re <;> rfl
@[simp] theorem readPort_status (re : Bool) (idx : BitVec 8) : (readPort re idx s).status = s.status := by
  cases re <;> rfl
@[simp] theorem readPort_arg0 (re : Bool) (idx : BitVec 8) : (readPort re idx s).arg0 = s.arg0 := by
  cases re <;> rfl
@[simp] theorem readPort_arg1 (re : Bool) (idx : BitVec 8) : (readPort re idx s).arg1 = s.arg1 := by
  cases re <;> rfl
@[simp] theorem readPort_res0 (re : Bool) (idx : BitVec 8) : (readPort re idx s).res0 = s.res0 := by
  cases re <;> rfl
@[simp] theorem readPort_res1 (re : Bool) (idx : BitVec 8) : (readPort re idx s).res1 = s.res1 := by
  cases re <;> rfl
@[simp] theorem readPort_keylen (re : Bool) (idx : BitVec 8) : (readPort re idx s).keylen = s.keylen := by
  cases re <;> rfl
@[simp] theorem readPort_keybuf (re : Bool) (idx : BitVec 8) : (readPort re idx s).keybuf = s.keybuf := by
  cases re <;> rfl
@[simp] theorem readPort_lph (re : Bool) (idx : BitVec 8) : (readPort re idx s).lph = s.lph := by
  cases re <;> rfl
@[simp] theorem readPort_biti (re : Bool) (idx : BitVec 8) : (readPort re idx s).biti = s.biti := by
  cases re <;> rfl
@[simp] theorem readPort_shift (re : Bool) (idx : BitVec 8) : (readPort re idx s).shift = s.shift := by
  cases re <;> rfl
@[simp] theorem readPort_txbyte (re : Bool) (idx : BitVec 8) : (readPort re idx s).txbyte = s.txbyte := by
  cases re <;> rfl
@[simp] theorem readPort_hold (re : Bool) (idx : BitVec 8) : (readPort re idx s).hold = s.hold := by
  cases re <;> rfl
@[simp] theorem readPort_op (re : Bool) (idx : BitVec 8) : (readPort re idx s).op = s.op := by
  cases re <;> rfl
@[simp] theorem readPort_cstate (re : Bool) (idx : BitVec 8) : (readPort re idx s).cstate = s.cstate := by
  cases re <;> rfl
@[simp] theorem readPort_kidx (re : Bool) (idx : BitVec 8) : (readPort re idx s).kidx = s.kidx := by
  cases re <;> rfl
@[simp] theorem readPort_inputs (re : Bool) (idx : BitVec 8) : (readPort re idx s).inputs = s.inputs := by
  cases re <;> rfl
@[simp] theorem readPort_ticks (re : Bool) (idx : BitVec 8) : (readPort re idx s).ticks = s.ticks := by
  cases re <;> rfl
@[simp] theorem readPort_cfg (re : Bool) (idx : BitVec 8) : (readPort re idx s).cfg = s.cfg := by
  cases re <;> rfl
@[simp] theorem readPort_rdata (re : Bool) (idx : BitVec 8) :
    (readPort re idx s).rdata = if re then some (hostRead s idx) else s.rdata := by
  cases re <;> rfl

/-! Reset. -/

section
variable (cfg : Config.Params) (ins : List Input) (n : Nat)

@[simp] theorem resetWith_clkPd : (State.resetWith cfg ins n).clkPd = false := rfl
@[simp] theorem resetWith_dataPd : (State.resetWith cfg ins n).dataPd = false := rfl
@[simp] theorem resetWith_vflags : (State.resetWith cfg ins n).vflags = 7 := rfl
@[simp] theorem resetWith_status : (State.resetWith cfg ins n).status = Status.clear := rfl
@[simp] theorem resetWith_arg0 : (State.resetWith cfg ins n).arg0 = 0 := rfl
@[simp] theorem resetWith_arg1 : (State.resetWith cfg ins n).arg1 = 0 := rfl
@[simp] theorem resetWith_res0 : (State.resetWith cfg ins n).res0 = 0 := rfl
@[simp] theorem resetWith_res1 : (State.resetWith cfg ins n).res1 = 0 := rfl
@[simp] theorem resetWith_keylen : (State.resetWith cfg ins n).keylen = 0 := rfl
@[simp] theorem resetWith_keybuf :
    (State.resetWith cfg ins n).keybuf = (List.range cfg.keybufDepth).map (Config.freeKeybuf n) := rfl
@[simp] theorem resetWith_lph : (State.resetWith cfg ins n).lph = .idle := rfl
@[simp] theorem resetWith_biti : (State.resetWith cfg ins n).biti = 0 := rfl
@[simp] theorem resetWith_shift : (State.resetWith cfg ins n).shift = 0 := rfl
@[simp] theorem resetWith_txbyte : (State.resetWith cfg ins n).txbyte = 0 := rfl
@[simp] theorem resetWith_hold : (State.resetWith cfg ins n).hold = 0 := rfl
@[simp] theorem resetWith_op : (State.resetWith cfg ins n).op = 0 := rfl
@[simp] theorem resetWith_cstate : (State.resetWith cfg ins n).cstate = .idle := rfl
@[simp] theorem resetWith_kidx : (State.resetWith cfg ins n).kidx = 0 := rfl
@[simp] theorem resetWith_rdata : (State.resetWith cfg ins n).rdata = none := rfl
@[simp] theorem resetWith_inputs : (State.resetWith cfg ins n).inputs = ins := rfl
@[simp] theorem resetWith_ticks : (State.resetWith cfg ins n).ticks = n := rfl
@[simp] theorem resetWith_cfg : (State.resetWith cfg ins n).cfg = cfg := rfl

end

end Sys2Proof.Machine
end

