-- ==== Sys2Proof/Laws/Ops.lean ====
section
/-! SUPPORT. What the shared operations do, said once. -/

namespace Sys2Proof.Machine

/-! ## The key-code buffer -/

@[simp] theorem Memory.length_write (m : Memory) (j : Nat) (v : Byte) :
    (Memory.write m j v).length = m.length := by simp [Memory.write]

/-- Every write keeps the form of the buffer. -/
theorem Memory.wf_write {depth : Nat} {m : Memory} (h : Memory.wf depth m) (j : Nat) (v : Byte) :
    Memory.wf depth (Memory.write m j v) := by simpa [Memory.wf] using h

theorem Memory.read_write_same {m : Memory} {j : Nat} (h : j < m.length) (v : Byte) :
    Memory.read (Memory.write m j v) j = v := by simp [Memory.read, Memory.write, h]

theorem Memory.read_write_other {m : Memory} {j k : Nat} (h : k ≠ j) (v : Byte) :
    Memory.read (Memory.write m j v) k = Memory.read m k := by
  simp [Memory.read, Memory.write, Ne.symm h]

theorem Memory.read_eq_getElem {m : Memory} {j : Nat} (h : j < m.length) :
    Memory.read m j = m[j] := by simp [Memory.read, h]

/-- The buffer drawn at reset has the form. -/
theorem resetWith_wf (cfg : Config.Params) (ins : List Input) (n : Nat) :
    Memory.wf cfg.keybufDepth (State.resetWith cfg ins n).keybuf := by simp [Memory.wf]

/-! ## Host access -/

theorem hostWrite_busy {s : State} (h : s.status.busy = true) (idx : BitVec 8) (v : Word) :
    hostWrite s idx v = s := by simp [hostWrite, h]

theorem hostWrite_idle {s : State} (h : s.status.busy = false) (idx : BitVec 8) (v : Word) :
    hostWrite s idx v = storeReg s (.ofIdx s.cfg.keybufDepth idx) v := by simp [hostWrite, h]

/-- A store changes only `VFLAGS`, the operands and the key-code buffer. -/
theorem storeReg_frame (s : State) (r : HostReg) (v : Word) :
    storeReg s r v =
      { s with
        vflags := (storeReg s r v).vflags
        arg0 := (storeReg s r v).arg0
        arg1 := (storeReg s r v).arg1
        keylen := (storeReg s r v).keylen
        keybuf := (storeReg s r v).keybuf } := by
  cases r <;> rfl

theorem storeReg_wf {s : State} {depth : Nat} (h : Memory.wf depth s.keybuf) (r : HostReg)
    (v : Word) : Memory.wf depth (storeReg s r v).keybuf := by
  cases r <;> first | exact h | exact Memory.wf_write h _ _

/-- A write of a command while busy does only its read half. -/
theorem issue_busy {s : State} (h : s.status.busy = true) (re : Bool) (opc : Byte)
    (start : State → State) : issue re opc start s = readPort re idxCmd s := by
  simp [issue, h]

/-- A write of a command of an idle engine is accepted. -/
theorem issue_idle {s : State} (h : s.status.busy = false) (re : Bool) (opc : Byte)
    (start : State → State) :
    issue re opc start s = start (accept opc (readPort re idxCmd s)) := by
  simp [issue, h]

@[simp] theorem hostRead_cmd (s : State) : hostRead s idxCmd = 0 := by
  simp [hostRead, HostReg.ofIdx, idxCmd, regValue]

@[simp] theorem hostRead_vflags (s : State) : hostRead s idxVflags = s.vflags.setWidth 32 := by
  simp [hostRead, HostReg.ofIdx, idxVflags, regValue]

/-- The read half of a command write leaves 0 on the port. -/
theorem readPort_cmd (re : Bool) (s : State) :
    readPort re idxCmd s = { s with rdata := cmdRead re s } := by
  cases re <;> simp [readPort, cmdRead]

theorem readPort_vflags_eq (re : Bool) (s : State) :
    readPort re idxVflags s
      = { s with rdata := if re then some (s.vflags.setWidth 32) else s.rdata } := by
  cases re <;> simp [readPort]

/-- What a write of the command register leaves, as a function of what the operation starts. -/
theorem issue_eq (re : Bool) (opc : Byte) (start : State → State) (s : State) :
    issue re opc start s =
      if s.status.busy then { s with rdata := cmdRead re s }
      else start (accept opc { s with rdata := cmdRead re s }) := by
  cases h : s.status.busy
  · rw [issue_idle h, readPort_cmd]; rfl
  · rw [issue_busy h, readPort_cmd]; rfl

end Sys2Proof.Machine
end

