-- ==== Sys2Proof/Laws/Engine.lean ====
section
/-! SUPPORT. What a micro-step and the sequencing between link calls can do: neither reads nor writes
what is not the engine's, and neither writes flags, operands, key buffer or configuration. -/

namespace Sys2Proof.Machine

/-- A state with the ports, the inputs to come and the model's counter replaced. -/
def State.withPorts (r : Option Word) (ins : List Input) (n : Nat) (s : State) : State :=
  { s with rdata := r, inputs := ins, ticks := n }

/-- The link call has returned. -/
def idleLink (s : State) : State := { s with lph := .idle }

section Ports

variable (r : Option Word) (ins : List Input) (n : Nat) (s : State)

theorem withPorts_self : s.withPorts s.rdata s.inputs s.ticks = s := rfl

theorem engine_eq_withPorts : s.engine = s.withPorts none [] 0 := rfl

theorem withPorts_withPorts (r' : Option Word) (ins' : List Input) (n' : Nat) :
    (s.withPorts r ins n).withPorts r' ins' n' = s.withPorts r' ins' n' := rfl

@[simp] theorem engine_withPorts : (s.withPorts r ins n).engine = s.engine := rfl

@[simp] theorem engine_engine : s.engine.engine = s.engine := rfl

@[simp] theorem engine_rdata_set (s : State) (r : Option Word) :
    State.engine { s with rdata := r } = s.engine := rfl

theorem post_withPorts (q : Report) : post q (s.withPorts r ins n) = (post q s).withPorts r ins n :=
  rfl

theorem nextItem_withPorts (j : Nat) :
    nextItem j (s.withPorts r ins n) = (nextItem j s).withPorts r ins n := by
  unfold nextItem
  show (if j < s.keylen.toNat then _ else _) = _
  split <;> rfl

theorem withOp_withPorts {row : CmdOp → State → State}
    (h : ∀ op, row op (s.withPorts r ins n) = (row op s).withPorts r ins n) :
    withOp row (s.withPorts r ins n) = (withOp row s).withPorts r ins n := by
  unfold withOp
  rw [show (s.withPorts r ins n).op = s.op from rfl]
  cases CmdOp.ofCode? s.op with
  | none => rfl
  | some op => exact h op

theorem afterSend_withPorts :
    afterSend (s.withPorts r ins n) = (afterSend s).withPorts r ins n := by
  unfold afterSend
  rw [show (s.withPorts r ins n).cstate = s.cstate from rfl]
  cases s.cstate <;>
    first
    | rfl
    | exact withOp_withPorts r ins n s fun op => by cases op <;> rfl

theorem ackCheck_withPorts (k : Byte) (q : RecvResult) {cont : State → State}
    (h : cont (s.withPorts r ins n) = (cont s).withPorts r ins n) :
    ackCheck k q cont (s.withPorts r ins n) = (ackCheck k q cont s).withPorts r ins n := by
  cases q with
  | err => rfl
  | ok b =>
    simp only [ackCheck]
    split
    · exact h
    · rfl

theorem afterRecv_withPorts (q : RecvResult) :
    afterRecv q (s.withPorts r ins n) = (afterRecv q s).withPorts r ins n := by
  unfold afterRecv
  rw [show (s.withPorts r ins n).cstate = s.cstate from rfl]
  cases s.cstate with
  | awaitFirstAck =>
    exact ackCheck_withPorts r ins n s 0 q
      (withOp_withPorts r ins n s fun op => by
        cases op <;> first | rfl | exact nextItem_withPorts r ins n s 0)
  | awaitItemAck =>
    exact ackCheck_withPorts r ins n s (s.kidx + 1) q
      (nextItem_withPorts r ins n s (s.kidx.toNat + 1))
  | _ => rfl

/-- A micro-step acts on the engine alone. -/
theorem microStep_withPorts (p : Pins) :
    microStep p (s.withPorts r ins n) = (microStep p s).withPorts r ins n := by
  unfold microStep
  rw [show (s.withPorts r ins n).lph = s.lph from rfl]
  cases s.lph with
  | rxLow => simp only [rxLowStep]; split <;> rfl
  | rxHigh =>
    simp only [rxHighStep]
    show (if p.clk = .high then if s.biti.toNat < 10 then _ else if s.biti.toNat = 10 then _ else _
      else _) = _
    split
    · split
      · rfl
      · split
        · exact afterRecv_withPorts r ins n (idleLink s) (recvResult s)
        · rfl
    · rfl
  | txHold =>
    simp only [txHoldStep]
    show (if 0 < s.hold then _ else _) = _
    split <;> rfl
  | txLow =>
    simp only [txLowStep]
    rw [show (s.withPorts r ins n).txbyte = s.txbyte from rfl,
      show (s.withPorts r ins n).biti = s.biti from rfl]
    split
    · cases txBit s.txbyte s.biti.toNat with
      | some b => rfl
      | none => dsimp only; split <;> rfl
    · rfl
  | txHigh =>
    simp only [txHighStep]
    show (if p.clk = .high then if s.biti.toNat < 11 then _ else if s.biti.toNat = 11 then _ else _
      else _) = _
    split
    · split
      · rfl
      · split
        · exact afterSend_withPorts r ins n (idleLink s)
        · rfl
    · rfl
  | _ => rfl

theorem pinLevels_withPorts (l : Lines) : pinLevels (s.withPorts r ins n) l = pinLevels s l := by
  cases l <;> rfl

end Ports

/-- What the engine reads and never writes: flags, operands, key buffer, configuration (20_memory.md
R53), and what is not its own. -/
structure SameOperands (s t : State) : Prop where
  vflags : t.vflags = s.vflags
  arg0 : t.arg0 = s.arg0
  arg1 : t.arg1 = s.arg1
  keylen : t.keylen = s.keylen
  keybuf : t.keybuf = s.keybuf
  cfg : t.cfg = s.cfg

theorem SameOperands.refl (s : State) : SameOperands s s := ⟨rfl, rfl, rfl, rfl, rfl, rfl⟩

theorem SameOperands.trans {s t u : State} (h : SameOperands s t) (k : SameOperands t u) :
    SameOperands s u :=
  ⟨k.1.trans h.1, k.2.trans h.2, k.3.trans h.3, k.4.trans h.4, k.5.trans h.5, k.6.trans h.6⟩

/-- What the sequencing after a link call can answer: the state as it is, a report, a send or a receive
begun in a sequencer state, with some list index. -/
inductive Sequel (s : State) : State → Prop where
  | stay : Sequel s s
  | post (r : Report) : Sequel s (post r s)
  | recv (c : SeqState) : Sequel s (startRecv (enter c s))
  | send (d : Byte) (c : SeqState) (k : Byte) : Sequel s (startSend d (enter c { s with kidx := k }))

theorem nextItem_sequel (j : Nat) (s : State) : Sequel s (nextItem j s) := by
  unfold nextItem
  split
  · exact .send _ _ _
  · exact .send _ _ s.kidx

theorem withOp_sequel {row : CmdOp → State → State} {s : State} (h : ∀ op, Sequel s (row op s)) :
    Sequel s (withOp row s) := by
  unfold withOp
  split
  · exact h _
  · exact .stay

theorem afterSend_sequel (s : State) : Sequel s (afterSend s) := by
  unfold afterSend
  split
  · exact .post _
  · refine withOp_sequel fun op => ?_
    cases op <;> first | exact .stay | exact .post _ | exact .recv _ | exact .send _ _ s.kidx
  · refine withOp_sequel fun op => ?_
    cases op <;> first | exact .stay | exact .post _
  · exact .recv _
  · exact .post _
  all_goals exact .stay

theorem ackCheck_sequel (k : Byte) (r : RecvResult) {cont : State → State} {s : State}
    (h : Sequel s (cont s)) : Sequel s (ackCheck k r cont s) := by
  unfold ackCheck
  split
  · split
    · exact h
    · exact .post _
  · exact .post _

theorem afterRecv_sequel (r : RecvResult) (s : State) : Sequel s (afterRecv r s) := by
  unfold afterRecv
  split
  · exact .post _
  · exact .post _
  · refine ackCheck_sequel _ _ (withOp_sequel fun op => ?_)
    cases op <;> first | exact .stay | exact .send _ _ s.kidx | exact nextItem_sequel _ _
  · exact ackCheck_sequel _ _ (nextItem_sequel _ _)
  all_goals exact .stay

theorem Sequel.sameOperands {s t : State} (h : Sequel s t) : SameOperands s t := by
  cases h <;> exact ⟨rfl, rfl, rfl, rfl, rfl, rfl⟩

/-- A sequel either is the completion, or reports nothing. -/
theorem Sequel.report {s t : State} (h : Sequel s t) :
    (∃ r, t = Machine.post r s)
    ∨ (t.status = s.status ∧ t.res0 = s.res0 ∧ t.res1 = s.res1) := by
  cases h with
  | post r => exact .inl ⟨r, rfl⟩
  | _ => exact .inr ⟨rfl, rfl, rfl⟩

/-- What a micro-step can do: stay inside its link call, writing link state and pulldowns only, or
return from it. -/
inductive MicroCases (s : State) : State → Prop where
  | inside (clkPd dataPd : Bool) (lph : LinkPhase) (biti : BitVec 4) (shift : FrameWord) (hold : Nat) :
    MicroCases s { s with clkPd, dataPd, lph, biti, shift, hold }
  | sent : MicroCases s (afterSend { s with lph := .idle })
  | received : MicroCases s (afterRecv (recvResult s) { s with lph := .idle })

theorem microStep_cases (p : Pins) (s : State) : MicroCases s (microStep p s) := by
  have stay : MicroCases s s := .inside s.clkPd s.dataPd s.lph s.biti s.shift s.hold
  unfold microStep
  split
  · exact stay
  · unfold rxLowStep
    split
    · exact .inside s.clkPd s.dataPd _ s.biti _ s.hold
    · exact stay
  · unfold rxHighStep
    split
    · split
      · exact .inside s.clkPd s.dataPd _ _ s.shift s.hold
      · split
        · exact .received
        · exact stay
    · exact stay
  · unfold txHoldStep
    split
    · exact .inside s.clkPd s.dataPd s.lph s.biti s.shift _
    · exact .inside s.clkPd s.dataPd _ s.biti s.shift s.hold
  · exact .inside s.clkPd _ _ s.biti s.shift s.hold
  · exact .inside _ s.dataPd _ _ s.shift s.hold
  · unfold txLowStep
    split
    · split
      · exact .inside s.clkPd _ _ s.biti s.shift s.hold
      · split
        · exact .inside s.clkPd s.dataPd _ s.biti s.shift s.hold
        · exact stay
    · exact stay
  · unfold txHighStep
    split
    · split
      · exact .inside s.clkPd s.dataPd _ _ s.shift s.hold
      · split
        · exact .sent
        · exact stay
    · exact stay

theorem MicroCases.sameOperands {s t : State} (h : MicroCases s t) : SameOperands s t := by
  cases h with
  | inside => exact ⟨rfl, rfl, rfl, rfl, rfl, rfl⟩
  | sent => exact ⟨(afterSend_sequel _).sameOperands.1, (afterSend_sequel _).sameOperands.2,
      (afterSend_sequel _).sameOperands.3, (afterSend_sequel _).sameOperands.4,
      (afterSend_sequel _).sameOperands.5, (afterSend_sequel _).sameOperands.6⟩
  | received => exact ⟨(afterRecv_sequel _ _).sameOperands.1, (afterRecv_sequel _ _).sameOperands.2,
      (afterRecv_sequel _ _).sameOperands.3, (afterRecv_sequel _ _).sameOperands.4,
      (afterRecv_sequel _ _).sameOperands.5, (afterRecv_sequel _ _).sameOperands.6⟩

theorem microStep_sameOperands (p : Pins) (s : State) : SameOperands s (microStep p s) :=
  (microStep_cases p s).sameOperands

end Sys2Proof.Machine
end

