-- ==== Sys2Proof/Laws/PerInstr.lean ====
section
/-! SUPPORT. Per instruction: the encoding loses nothing (30_encoding.md R60 to R62). -/

namespace Sys2Proof.Laws.RoundTrip

/-- Decoding the encoding of an instruction gives it back. -/
def Statement (i : Instr) : Prop := decode (encode i) = .ok i

theorem init (re : Bool) : Statement (.init re) := decode_encodeCmd re .init

theorem recv (re : Bool) : Statement (.recv re) := decode_encodeCmd re .recv

theorem send (re : Bool) : Statement (.send re) := decode_encodeCmd re .send

theorem setflags (re start stop parity : Bool) : Statement (.setflags re start stop parity) := by
  unfold Statement
  revert re start stop parity
  decide

theorem getflags : Statement .getflags := by
  unfold Statement
  decide

theorem kenable (re : Bool) : Statement (.kenable re) := decode_encodeCmd re .kenable

theorem kdisable (re : Bool) : Statement (.kdisable re) := decode_encodeCmd re .kdisable

theorem kdefault (re : Bool) : Statement (.kdefault re) := decode_encodeCmd re .kdefault

theorem kreset (re : Bool) : Statement (.kreset re) := decode_encodeCmd re .kreset

theorem kresend (re : Bool) : Statement (.kresend re) := decode_encodeCmd re .kresend

theorem kecho (re : Bool) : Statement (.kecho re) := decode_encodeCmd re .kecho

theorem kleds (re : Bool) : Statement (.kleds re) := decode_encodeCmd re .kleds

theorem kscanset (re : Bool) : Statement (.kscanset re) := decode_encodeCmd re .kscanset

theorem krate (re : Bool) : Statement (.krate re) := decode_encodeCmd re .krate

theorem kkeys (re : Bool) : Statement (.kkeys re) := decode_encodeCmd re .kkeys

theorem kallkeys (re : Bool) : Statement (.kallkeys re) := decode_encodeCmd re .kallkeys

end Sys2Proof.Laws.RoundTrip
end

