-- ==== Sys2Proof/Laws/Step.lean ====
section
/-! SUPPORT. What a step can do, said once. -/

namespace Sys2Proof.Machine

/-- The state an operation's meaning answers. -/
def execState (i : Instr) (s : State) : State :=
  match exec i s with
  | .next t => t
  | .fault _ | .refused _ => s

/-- Every operation has a next state in every state. -/
theorem exec_eq (i : Instr) (s : State) : exec i s = .next (execState i s) := by
  cases i <;> rfl

theorem execState_of_exec {i : Instr} {s u : State} (h : exec i s = .next u) :
    execState i s = u := by
  have := exec_eq i s
  rw [h] at this
  exact (Host.Outcome.next.inj this).symm

/-- The effect of a tick's host access. -/
def accessEffect (a : AccessWord) (s : State) : State :=
  match decode a with
  | .ok i => execState i s
  | .error o => otherAccess o s

/-- A step is the reset of the tick, or its access and then, if the engine was busy, a micro-step. -/
theorem step_eq (s : State) :
    step s = .next (if s.input.rst then rstTick s.advance
      else engineTick s.status.busy s.input.lines (accessEffect s.input.access s.advance)) := by
  unfold step tick accessEffect
  split
  · rfl
  · cases decode s.input.access with
    | error o => rfl
    | ok i => simp only [exec_eq, thenEngine, advance_status]

theorem step_eq_iff {s t : State} :
    step s = .next t ↔ t = (if s.input.rst then rstTick s.advance
      else engineTick s.status.busy s.input.lines (accessEffect s.input.access s.advance)) := by
  rw [step_eq]
  exact ⟨fun h => (Host.Outcome.next.inj h).symm, fun h => h ▸ rfl⟩

/-- What an operation starts once it is accepted (41_link.md R101). -/
def opStart : CmdOp → State → State
  | .init => fun s => post {} (releasePulldowns s)
  | .recv => fun s => startRecv (begin .link s)
  | .send => fun s => startSend (sendByte s) (begin .link s)
  | .kenable => fun s => sendFirst s.cfg.codeEnable s
  | .kdisable => fun s => sendFirst s.cfg.codeDisable s
  | .kdefault => fun s => sendFirst s.cfg.codeSetDefault s
  | .kreset => fun s => sendFirst s.cfg.codeReset s
  | .kresend => fun s => sendFirst s.cfg.codeResend s
  | .kecho => fun s => sendFirst s.cfg.codeEcho s
  | .kleds => fun s => sendFirst s.cfg.codeSetLeds s
  | .kscanset => fun s =>
    if scanSetOk s then sendFirst s.cfg.codeScanSet s else post { err := .invalidArgument } s
  | .krate => fun s => sendFirst s.cfg.codeSetRate s
  | .kkeys => fun s =>
    if keylenOk s then sendFirst (selectorOne s) s else post { err := .invalidArgument } s
  | .kallkeys => fun s => sendFirst (selectorAll s) s

/-- What an accepted operation can start: it is INIT, is turned away by its argument check, or begins its
first link call. -/
inductive Started (s : State) : State → Prop where
  | init : Started s (post {} (releasePulldowns s))
  | invalid : Started s (post { err := .invalidArgument } s)
  | recv : Started s (startRecv (begin .link s))
  | send (d : Byte) (c : SeqState) : Started s (startSend d (begin c s))

theorem opStart_started (op : CmdOp) (s : State) : Started s (opStart op s) := by
  cases op with
  | init => exact .init
  | recv => exact .recv
  | kscanset =>
    simp only [opStart]
    split
    · exact .send _ _
    · exact .invalid
  | kkeys =>
    simp only [opStart]
    split
    · exact .send _ _
    · exact .invalid
  | _ => exact .send _ _

theorem opStart_sameOperands (op : CmdOp) (s : State) : SameOperands s (opStart op s) := by
  have h := opStart_started op s
  generalize opStart op s = t at h
  cases h <;> exact ⟨rfl, rfl, rfl, rfl, rfl, rfl⟩

/-- Every write of `CMD` is the issue of its operation. -/
theorem execState_cmd (op : CmdOp) (re : Bool) (s : State) :
    execState (op.instr re) s = issue re op.code (opStart op) s := by
  cases op <;> rfl

theorem exec_cmd (op : CmdOp) (re : Bool) (s : State) :
    exec (op.instr re) s = .next (issue re op.code (opStart op) s) := by
  rw [exec_eq, execState_cmd]

/-- The bits of three flags side by side. -/
theorem flag_bits (x y z : Bool) :
    (BitVec.ofBool x ++ BitVec.ofBool y ++ BitVec.ofBool z).getLsbD 0 = z
    ∧ (BitVec.ofBool x ++ BitVec.ofBool y ++ BitVec.ofBool z).getLsbD 1 = y
    ∧ (BitVec.ofBool x ++ BitVec.ofBool y ++ BitVec.ofBool z).getLsbD 2 = x := by
  revert x y z
  decide

/-- The bits of a SETFLAGS are the low bits of its write data. -/
theorem setflags_word (a : AccessWord) :
    BitVec.ofBool (a.getLsbD 2) ++ BitVec.ofBool (a.getLsbD 1) ++ BitVec.ofBool (a.getLsbD 0)
      = (Access.wdata a).setWidth 3 := by
  obtain ⟨h0, h1, h2⟩ := flag_bits (a.getLsbD 2) (a.getLsbD 1) (a.getLsbD 0)
  apply BitVec.eq_of_getLsbD_eq
  intro k hk
  have : k = 0 ∨ k = 1 ∨ k = 2 := by omega
  rcases this with rfl | rfl | rfl
  · exact h0.trans (by simp [Access.wdata])
  · exact h1.trans (by simp [Access.wdata])
  · exact h2.trans (by simp [Access.wdata])

theorem setWidth_flags (v : BitVec 3) : (v.setWidth 32).setWidth 3 = v := by
  ext k hk
  simp

/-- While busy, an access does nothing but its read half. -/
theorem accessEffect_busy {s : State} (h : s.status.busy = true) (a : AccessWord) :
    accessEffect a s = readPort (Access.re a) (Access.idx a) s := by
  unfold accessEffect
  have hd := decode_cases a
  generalize decode a = d at hd
  cases hd with
  | cmd hw hi op ho => simp [execState_cmd, issue_busy h, hi]
  | illegal hw hi ho => simp [otherAccess, issue_busy h, hi]
  | setflags hw hi => simp [execState, exec, execSetflags, hostWrite_busy, h, hi]
  | write hw hc hv => simp [otherAccess, hostWrite_busy, h]
  | getflags hw hr hi => simp [execState, exec, execGetflags, hr, hi]
  | read hw hr hi => simp [otherAccess, hr]
  | nothing hw hr => simp [otherAccess, readPort, hr]

/-- What an access of an idle engine's host can do: a read; the store of a register and its read half;
the issue of an operation; an illegal operation. -/
inductive IdleAccess (a : AccessWord) (s : State) : State → Prop where
  | read (hw : Access.we a = false) : IdleAccess a s (readPort (Access.re a) (Access.idx a) s)
  | store (hw : Access.we a = true) (hi : Access.idx a ≠ 0) :
    IdleAccess a s (storeReg (readPort (Access.re a) (Access.idx a) s)
      (.ofIdx s.cfg.keybufDepth (Access.idx a)) (Access.wdata a))
  | operation (hw : Access.we a = true) (hi : Access.idx a = 0) (op : CmdOp)
      (ho : Access.opc a = op.code) :
    IdleAccess a s (opStart op (accept op.code { s with rdata := cmdRead (Access.re a) s }))
  | illegal (hw : Access.we a = true) (hi : Access.idx a = 0)
      (ho : CmdOp.ofCode? (Access.opc a) = none) :
    IdleAccess a s (post { err := .illegalOperation }
      (accept (Access.opc a) { s with rdata := cmdRead (Access.re a) s }))

theorem accessEffect_idle {s : State} (h : s.status.busy = false) (a : AccessWord) :
    IdleAccess a s (accessEffect a s) := by
  unfold accessEffect
  have hd := decode_cases a
  generalize decode a = d at hd
  cases hd with
  | cmd hw hi op ho =>
    simp only [execState_cmd, issue_eq, h]
    exact .operation hw hi op ho
  | illegal hw hi ho =>
    simp only [otherAccess, issue_eq, h]
    exact .illegal hw hi ho
  | setflags hw hi =>
    have e := IdleAccess.store (s := s) hw (by rw [hi]; decide)
    have k : HostReg.ofIdx s.cfg.keybufDepth idxVflags = .vflags := by
      simp [HostReg.ofIdx, idxVflags]
    simp only [execState, exec, execSetflags]
    rw [hostWrite_idle (by simpa using h), setflags_word]
    simpa [hi, k, storeReg, setWidth_flags] using e
  | write hw hc hv =>
    have e := IdleAccess.store (s := s) hw hc
    simpa [otherAccess, hostWrite_idle, h] using e
  | getflags hw hr hi =>
    have e := IdleAccess.read (s := s) hw
    simpa [execState, exec, execGetflags, hr, hi] using e
  | read hw hr hi =>
    have e := IdleAccess.read (s := s) hw
    simpa [otherAccess, hr] using e
  | nothing hw hr =>
    have e := IdleAccess.read (s := s) hw
    simpa [otherAccess, readPort, hr] using e

/-- What the read port carries after an access. -/
def portAfter (a : AccessWord) (s : State) : Option Word :=
  if Access.re a then some (hostRead s (Access.idx a)) else none

/-- The read half of the access of a tick. -/
theorem readPort_advance (a : AccessWord) (s : State) :
    readPort (Access.re a) (Access.idx a) s.advance
      = s.withPorts (portAfter a s) s.inputs.tail (s.ticks + 1) := by
  unfold portAfter
  cases Access.re a <;> rfl

/-- A step with no reset while busy: the read half of the access, and a micro-step of the engine. -/
theorem step_busy {s : State} (h : s.status.busy = true) (hr : s.input.rst = false) :
    step s = .next ((microStep (pinLevels s s.input.lines) s).withPorts (portAfter s.input.access s)
      s.inputs.tail (s.ticks + 1)) := by
  rw [step_eq, hr, accessEffect_busy (by simpa using h), readPort_advance]
  simp only [engineTick, h, pinLevels_withPorts, microStep_withPorts]
  rfl

/-- A step with no reset of an idle engine: the access. -/
theorem step_idle {s : State} (h : s.status.busy = false) (hr : s.input.rst = false) :
    step s = .next (accessEffect s.input.access s.advance) := by
  rw [step_eq, hr, h]
  rfl

end Sys2Proof.Machine
end

