-- ==== Sys2Proof/Laws/Run.lean ====
section
/-! SUPPORT. Runs of a busy engine: they are the lines of the inputs played to the engine, whatever the
host does. The lines of one bit of a receive and of one period of a send, whatever their length. -/

namespace Sys2Proof.Machine

theorem run_zero (s : State) : run 0 s = .next s := rfl

theorem core_run_succ (M : Host.Core) {s t : M.State} (h : M.step s = .next t) (k : Nat) :
    M.run (k + 1) s = M.run k t := by
  simp only [Host.Core.run, h]

theorem run_succ {s t : State} (h : step s = .next t) (k : Nat) : run (k + 1) s = run k t :=
  core_run_succ Sys2Proof.core h k

theorem run_add {s t : State} {m : Nat} (h : run m s = .next t) (k : Nat) :
    run (m + k) s = run k t := by
  induction m generalizing s with
  | zero => cases h; rw [Nat.zero_add]
  | succ m ih =>
    obtain ⟨u, hu⟩ : ∃ u, step s = .next u := ⟨_, step_eq s⟩
    rw [run_succ hu] at h
    rw [Nat.succ_add, run_succ hu]
    exact ih h

/-- The byte whose send is at the tick that ends its request-to-send. -/
def rtsByte (s : State) : List Byte := if s.lph = .txRtsRel then [s.txbyte] else []

/-- The lines of a sequence of ticks, played to a busy engine, one micro-step each: it comes from `s` to
`t`, and the sends that pass the end of their request-to-send are those of the bytes. -/
inductive Played : List Lines → State → State → List Byte → Prop where
  | nil (s : State) : Played [] s s []
  | cons {l : Lines} {ls : List Lines} {s t : State} {bs : List Byte} (hb : s.status.busy = true)
      (h : Played ls (microStep (pinLevels s l) s) t bs) : Played (l :: ls) s t (rtsByte s ++ bs)

/-- Two stretches of ticks, one after the other. -/
theorem Played.append {ls ms : List Lines} {s t u : State} {bs cs : List Byte}
    (h : Played ls s t bs) (k : Played ms t u cs) : Played (ls ++ ms) s u (bs ++ cs) := by
  induction h with
  | nil => exact k
  | cons hb _ ih =>
    rw [List.append_assoc]
    exact .cons hb (ih k)

/-- A tick that does not end a request-to-send. -/
theorem Played.tick {l : Lines} {ls : List Lines} {s t u : State} {bs : List Byte}
    (hb : s.status.busy = true) (hl : s.lph ≠ .txRtsRel) (e : microStep (pinLevels s l) s = t)
    (h : Played ls t u bs) : Played (l :: ls) s u bs := by
  subst e
  simpa [rtsByte, hl] using Played.cons hb h

theorem Played.withPorts {ls : List Lines} {s t : State} {bs : List Byte} (h : Played ls s t bs)
    (r : Option Word) (is : List Input) (n : Nat) :
    Played ls (s.withPorts r is n) (t.withPorts r is n) bs := by
  induction h with
  | nil => exact .nil _
  | cons hb _ ih => exact .cons hb (by rwa [pinLevels_withPorts, microStep_withPorts])

theorem bytesPut_succ {s t : State} (h : step s = .next t) (k : Nat) :
    bytesPut (k + 1) s = rtsByte s ++ bytesPut k t := by
  simp only [bytesPut, h, rtsByte]

/-- A run of a busy engine plays the lines of its inputs, whatever the host does. -/
theorem run_played {s t : State} {ins rest : List Input} {ls : List Lines} {bs : List Byte}
    (hi : s.inputs = ins ++ rest) (hp : Plays ins ls) (h : Played ls s t bs) :
    (∃ r : Option Word, run ins.length s = .next (t.withPorts r rest (s.ticks + ins.length)))
      ∧ bytesPut ins.length s = bs := by
  induction ins generalizing s t ls bs with
  | nil =>
    obtain ⟨rfl, -⟩ := hp
    obtain rfl : s = t := by cases h; rfl
    obtain rfl : bs = [] := by cases h; rfl
    exact ⟨⟨s.rdata, by rw [← show s.inputs = rest from hi]; rfl⟩, rfl⟩
  | cons i ins ih =>
    obtain ⟨rfl, hr⟩ := hp
    cases h with
    | cons hb h =>
      have e : s.input = i := by simp [State.input, hi]
      have st := step_busy (s := s) hb (by rw [e]; exact hr i (by simp))
      rw [e, hi] at st
      obtain ⟨⟨r, hr'⟩, hbytes⟩ := ih rfl ⟨rfl, fun j hj => hr j (by simp [hj])⟩
        (h.withPorts (portAfter i.access s) (ins ++ rest) (s.ticks + 1))
      refine ⟨⟨r, ?_⟩, ?_⟩
      · rw [List.length_cons, run_succ st]
        refine hr'.trans ?_
        simp only [State.withPorts]
        congr 2
        omega
      · rw [List.length_cons, bytesPut_succ st]
        exact congrArg _ hbytes

/-! ## Levels -/

theorem forall₂_split {α β : Type} {R : α → β → Prop} {ls : List α} {a b : List β}
    (h : List.Forall₂ R ls (a ++ b)) :
    ∃ l m, ls = l ++ m ∧ List.Forall₂ R l a ∧ List.Forall₂ R m b := by
  induction a generalizing ls with
  | nil => exact ⟨[], ls, rfl, .nil, h⟩
  | cons c a ih =>
    cases h with
    | cons hd ht =>
      obtain ⟨l, m, rfl, hl, hm⟩ := ih ht
      exact ⟨_ :: l, m, rfl, .cons hd hl, hm⟩

theorem forall₂_singleton {α β : Type} {R : α → β → Prop} {ls : List α} {c : β}
    (h : List.Forall₂ R ls [c]) : ∃ l, ls = [l] ∧ R l c := by
  cases h with
  | cons hd ht =>
    cases ht
    exact ⟨_, rfl, hd⟩

theorem forall₂_replicate {α β : Type} {R : α → β → Prop} {ls : List α} {n : Nat} {c : β}
    (h : List.Forall₂ R ls (List.replicate n c)) : ∀ l ∈ ls, R l c := by
  induction n generalizing ls with
  | zero => cases h; simp
  | succ n ih =>
    cases h with
    | cons hd ht => simpa [hd] using ih ht

/-- A phase of one level begins with a tick of that level. -/
theorem forall₂_replicate_succ {α β : Type} {R : α → β → Prop} {ls : List α} {n : Nat} {c : β}
    (h : List.Forall₂ R ls (List.replicate (n + 1) c)) :
    ∃ l m, ls = l :: m ∧ R l c ∧ ∀ x ∈ m, R x c := by
  cases h with
  | cons hd ht => exact ⟨_, _, rfl, hd, forall₂_replicate ht⟩

/-- The clock level depends on the engine through its clock pulldown alone. -/
theorem pinLevels_clk_congr {s t : State} (h : s.clkPd = t.clkPd) (l : Lines) :
    (pinLevels s l).clk = (pinLevels t l).clk := by
  cases l <;> simp [pinLevels, h]

/-- The levels depend on the engine through its pulldowns alone. -/
theorem pinLevels_congr {s t : State} (h : s.clkPd = t.clkPd) (k : s.dataPd = t.dataPd) (l : Lines) :
    pinLevels s l = pinLevels t l := by
  cases l <;> simp [pinLevels, h, k]

theorem LevelsAre.congr {s t : State} {ls : List Lines} {ps : List (Level × Option Level)}
    (h : LevelsAre s ls ps) (hc : t.clkPd = s.clkPd) (hd : t.dataPd = s.dataPd) : LevelsAre t ls ps :=
  List.Forall₂.imp (fun l _ hl => by rwa [pinLevels_congr hc hd l]) h

theorem ClockIs.congr {s t : State} {ls : List Lines} {cs : List Level}
    (h : ClockIs s ls cs) (hc : t.clkPd = s.clkPd) : ClockIs t ls cs :=
  List.Forall₂.imp (fun l _ hl => (pinLevels_clk_congr hc l).trans hl) h

/-- Pins at the levels of a clock, whatever the pulldowns. -/
theorem clockIs_pins (s : State) (d : Level) (clks : List Level) :
    ClockIs s (clks.map fun c => .pins c d) clks := by
  induction clks with
  | nil => exact .nil
  | cons c clks ih => exact .cons rfl ih

/-- A device that drives a clock on a wired line whose pulldown is released. -/
theorem clockIs_wired {s : State} (h : s.clkPd = false) (d : Level) (clks : List Level) :
    ClockIs s (clks.map fun c => .wired c d) clks := by
  induction clks with
  | nil => exact .nil
  | cons c clks ih => exact .cons (by cases c <;> simp [pinLevels, h, Level.bit, Level.ofBit]) ih

/-- A device that drives both wired lines, with both pulldowns released; `x` is its data level where none
is asked for. -/
theorem levelsAre_wired {s : State} (h : s.clkPd = false) (k : s.dataPd = false)
    (x : Level) (ps : List (Level × Option Level)) :
    LevelsAre s (ps.map fun p => .wired p.1 (p.2.getD x)) ps := by
  have bit : ∀ c : Level, Level.ofBit c.bit = c := by intro c; cases c <;> rfl
  induction ps with
  | nil => exact .nil
  | cons p ps ih =>
    obtain ⟨c, d⟩ := p
    refine .cons ⟨by simp [pinLevels, h, bit], ?_⟩ ih
    rintro d rfl
    simp [pinLevels, k, bit]

/-! ## Waits -/

/-- A poll that sees the level it does not wait for changes nothing (41_link.md R111, R118). -/
theorem microStep_wait {s : State} {p : Pins}
    (h : ((s.lph = .rxLow ∨ s.lph = .txLow) ∧ p.clk = .high)
      ∨ ((s.lph = .rxHigh ∨ s.lph = .txHigh) ∧ p.clk = .low)) : microStep p s = s := by
  rcases h with ⟨h | h, hc⟩ | ⟨h | h, hc⟩ <;>
    simp [microStep, h, hc, rxLowStep, rxHighStep, txLowStep, txHighStep]

/-- Ticks that all show the clock level that is not waited for. -/
theorem played_wait {s : State} {ls : List Lines} (c : Level) (hb : s.status.busy = true)
    (h : ((s.lph = .rxLow ∨ s.lph = .txLow) ∧ c = .high)
      ∨ ((s.lph = .rxHigh ∨ s.lph = .txHigh) ∧ c = .low))
    (hl : ∀ l ∈ ls, (pinLevels s l).clk = c) : Played ls s s [] := by
  have hn : s.lph ≠ .txRtsRel := by rintro e; simp [e] at h
  induction ls with
  | nil => exact .nil s
  | cons l ls ih =>
    have hc := hl l (by simp)
    refine .tick hb hn (microStep_wait (by rw [hc]; exact h)) (ih fun l hl' => hl l (by simp [hl']))

/-! ## One bit of a receive -/

/-- The low part of a bit period: the first tick samples, the others wait. -/
theorem played_rxLow {s : State} {n : Nat} {d : Level} {ls : List Lines} (hb : s.status.busy = true)
    (hl : s.lph = .rxLow) (h : LevelsAre s ls (List.replicate (n + 1) (.low, some d))) :
    Played ls s { s with shift := setFrameBit s.shift s.biti.toNat d.bit, lph := .rxHigh } [] := by
  obtain ⟨l, m, rfl, h1, hm⟩ := forall₂_replicate_succ h
  exact .tick hb (by simp [hl]) (by simp [microStep, hl, rxLowStep, h1.1, h1.2 d rfl])
    (played_wait .low hb (by simp) fun x hx => (hm x hx).1)

/-- The high part of a bit period before the last. -/
theorem played_rxHigh {s : State} {n : Nat} {ls : List Lines} (hb : s.status.busy = true)
    (hl : s.lph = .rxHigh) (hk : s.biti.toNat < 10)
    (h : LevelsAre s ls (List.replicate (n + 1) (.high, none))) :
    Played ls s { s with biti := s.biti + 1, lph := .rxLow } [] := by
  obtain ⟨l, m, rfl, h1, hm⟩ := forall₂_replicate_succ h
  exact .tick hb (by simp [hl]) (by simp [microStep, hl, rxHighStep, h1.1, hk])
    (played_wait .high hb (by simp) fun x hx => (hm x hx).1)

/-- The return of `link_recv` at the last rising edge. -/
theorem played_rxReturn {s : State} {l : Lines} (hb : s.status.busy = true) (hl : s.lph = .rxHigh)
    (hk : s.biti = 10) (hc : (pinLevels s l).clk = .high) :
    Played [l] s (afterRecv (recvResult s) (idleLink s)) [] :=
  .tick hb (by simp [hl]) (by simp [microStep, hl, rxHighStep, hc, hk, idleLink]) (.nil _)

/-! ## The periods of a send -/

/-- The low part of a send period from 1 to 10: the first tick drives the bit, the others wait. -/
theorem played_txLow {s : State} {n : Nat} {ls : List Lines} (hb : s.status.busy = true)
    (hl : s.lph = .txLow) (h1 : 1 ≤ s.biti.toNat) (h10 : s.biti.toNat ≤ 10)
    (hc : ClockIs s ls (List.replicate (n + 1) .low)) :
    Played ls s { s with dataPd := !txWire s.txbyte s.biti.toNat, lph := .txHigh } [] := by
  obtain ⟨l, m, rfl, hd, hm⟩ := forall₂_replicate_succ hc
  refine .tick hb (by simp [hl]) (by simp [microStep, hl, txLowStep, hd, txBit_eq_txWire _ h1 h10])
    (played_wait .low hb (by simp) ?_)
  intro x hx
  rw [← hm x hx]
  cases x <;> rfl

/-- The low part of period 11, the acknowledge bit: nothing is driven. -/
theorem played_txAck {s : State} {n : Nat} {ls : List Lines} (hb : s.status.busy = true)
    (hl : s.lph = .txLow) (hk : s.biti = 11) (hc : ClockIs s ls (List.replicate (n + 1) .low)) :
    Played ls s { s with lph := .txHigh } [] := by
  obtain ⟨l, m, rfl, hd, hm⟩ := forall₂_replicate_succ hc
  exact .tick hb (by simp [hl]) (by simp [microStep, hl, txLowStep, hd, hk])
    (played_wait .low hb (by simp) hm)

/-- The high part of a send period before the last. -/
theorem played_txHigh {s : State} {n : Nat} {ls : List Lines} (hb : s.status.busy = true)
    (hl : s.lph = .txHigh) (hk : s.biti.toNat < 11)
    (hc : ClockIs s ls (List.replicate (n + 1) .high)) :
    Played ls s { s with biti := s.biti + 1, lph := .txLow } [] := by
  obtain ⟨l, m, rfl, hd, hm⟩ := forall₂_replicate_succ hc
  exact .tick hb (by simp [hl]) (by simp [microStep, hl, txHighStep, hd, hk])
    (played_wait .high hb (by simp) hm)

/-- The return of `link_send` at the last rising edge. -/
theorem played_txReturn {s : State} {l : Lines} (hb : s.status.busy = true) (hl : s.lph = .txHigh)
    (hk : s.biti = 11) (hc : (pinLevels s l).clk = .high) :
    Played [l] s (afterSend (idleLink s)) [] :=
  .tick hb (by simp [hl]) (by simp [microStep, hl, txHighStep, hc, hk, idleLink]) (.nil _)

/-- The hold of the request-to-send counts ticks, whatever the lines are. -/
theorem played_txHold {s : State} {ls : List Lines} (hb : s.status.busy = true)
    (hl : s.lph = .txHold) (hn : ls.length ≤ s.hold) :
    Played ls s { s with hold := s.hold - ls.length } [] := by
  induction ls generalizing s with
  | nil => exact .nil s
  | cons l ls ih =>
    rw [List.length_cons] at hn
    have k := ih (s := { s with hold := s.hold - 1 }) hb hl (by simp only; omega)
    rw [List.length_cons, Nat.add_comm, ← Nat.sub_sub]
    exact .tick hb (by simp [hl]) (by simp [microStep, hl, txHoldStep, show 0 < s.hold by omega]) k

/-- The request-to-send up to the tick that ends it: `HOLD` ticks, one that sees it used up, one that
pulls the data line. -/
theorem played_rtsHeld {s : State} {ls : List Lines} (hb : s.status.busy = true)
    (hl : s.lph = .txHold) (hn : ls.length = s.hold + 2) :
    Played ls s { s with hold := 0, dataPd := true, lph := .txRtsRel } [] := by
  have hk := played_txHold (ls := ls.take s.hold) hb hl (List.length_take_le ..)
  have hlen : (ls.take s.hold).length = s.hold := by rw [List.length_take]; omega
  have hd : (ls.drop s.hold).length = 2 := by rw [List.length_drop]; omega
  rw [hlen, Nat.sub_self] at hk
  obtain ⟨a, b, hm⟩ := List.length_eq_two.mp hd
  rw [← List.take_append_drop s.hold ls, hm]
  refine hk.append (.tick hb (by simp [hl]) (t := { s with hold := 0, lph := .txRtsData })
    (by simp [microStep, hl, txHoldStep]) (.tick hb (by simp) ?_ (.nil _)))
  rfl

/-- The request-to-send (41_link.md R118): held, and then the tick that releases the clock. -/
theorem played_rts {s : State} {ls : List Lines} (hb : s.status.busy = true)
    (hl : s.lph = .txHold) (hn : ls.length = s.hold + 3) :
    Played ls s { s with hold := 0, dataPd := true, clkPd := false, biti := 1, lph := .txLow }
      [s.txbyte] := by
  have h2 : (ls.take (s.hold + 2)).length = s.hold + 2 := by rw [List.length_take]; omega
  have hd : (ls.drop (s.hold + 2)).length = 1 := by rw [List.length_drop]; omega
  obtain ⟨a, hm⟩ := List.length_eq_one_iff.mp hd
  rw [← List.take_append_drop (s.hold + 2) ls, hm]
  exact (played_rtsHeld hb hl h2).append (.cons hb (.nil _))

/-! ## Whole link calls -/

/-- The state of a receive with the first `k` samples in the shift register. -/
def rxAt (w : FrameWord) (k : Nat) (s : State) : State :=
  { s with
    shift := (List.range k).foldl (fun v i => setFrameBit v i (w.getLsbD i)) 0
    biti := BitVec.ofNat 4 k
    lph := .rxLow }

theorem shift_full (w : FrameWord) :
    (List.range 11).foldl (fun v i => setFrameBit v i (w.getLsbD i)) 0 = w := by
  apply BitVec.eq_of_getLsbD_eq
  intro j hj
  rw [getLsbD_foldl_setFrameBit _ _ _ hj]
  simp [hj]

theorem bit_ofBit (b : Bool) : (Level.ofBit b).bit = b := by cases b <;> rfl

/-- The levels of the bits `0 .. k - 1` of a receive. -/
def bitLevels (w : FrameWord) (lo hi : Nat → Nat) (k : Nat) : List (Level × Option Level) :=
  (List.range k).flatMap fun i =>
    List.replicate (lo i + 1) (.low, some (Level.ofBit (w.getLsbD i)))
      ++ List.replicate (hi i + 1) (.high, none)

/-- The bits `0 .. k - 1` of a receive. -/
theorem played_rxBits {w : FrameWord} {lo hi : Nat → Nat} {s : State} (hb : s.status.busy = true)
    {k : Nat} (hk : k ≤ 10) {ls : List Lines} (h : LevelsAre s ls (bitLevels w lo hi k)) :
    Played ls (rxAt w 0 s) (rxAt w k s) [] := by
  induction k generalizing ls with
  | zero => cases h; exact .nil _
  | succ k ih =>
    have e : bitLevels w lo hi (k + 1) = bitLevels w lo hi k
        ++ (List.replicate (lo k + 1) (.low, some (Level.ofBit (w.getLsbD k)))
          ++ List.replicate (hi k + 1) (.high, none)) := by
      simp [bitLevels, List.range_succ]
    rw [e] at h
    obtain ⟨l, m, rfl, hl, hm⟩ := forall₂_split h
    obtain ⟨m1, m2, rfl, h1, h2⟩ := forall₂_split hm
    have hbi : (BitVec.ofNat 4 k).toNat = k := by simp; omega
    have low := played_rxLow (s := rxAt w k s) hb rfl (LevelsAre.congr h1 rfl rfl)
    have high := played_rxHigh
      (s := { rxAt w k s with
        shift := setFrameBit (rxAt w k s).shift (rxAt w k s).biti.toNat
          (Level.ofBit (w.getLsbD k)).bit
        lph := .rxHigh })
      hb rfl (by simp only [rxAt]; omega) (LevelsAre.congr h2 rfl rfl)
    have fin := (ih (by omega) hl).append (low.append high)
    have hs : (List.range (k + 1)).foldl (fun v i => setFrameBit v i (w.getLsbD i)) 0
        = setFrameBit ((List.range k).foldl (fun v i => setFrameBit v i (w.getLsbD i)) 0) k
            (w.getLsbD k) := by
      rw [List.range_succ, List.foldl_append]
      rfl
    have hi : BitVec.ofNat 4 (k + 1) = BitVec.ofNat 4 k + 1 := by rw [BitVec.ofNat_add]; rfl
    simpa only [rxAt, hs, hi, hbi, bit_ofBit, List.nil_append] using fin

/-- A whole receive, from its entry (41_link.md R110, R111): the engine comes to what follows the
return of `link_recv` with the word sent, and sends nothing. -/
theorem played_recv {s : State} {ls : List Lines} {w : FrameWord} {wait : Nat} {lo hi : Nat → Nat}
    (hb : s.status.busy = true) (hl : s.lph = .rxLow) (hs : s.shift = 0) (hk : s.biti = 0)
    (h : LevelsAre s ls (frameLevels w wait lo hi)) :
    Played ls s (afterRecv (recvResult (recvReturns w s)) (recvReturns w s)) [] := by
  have e0 : rxAt w 0 s = s := by
    simp only [rxAt, List.range_zero, List.foldl_nil]
    rw [← hl, ← hs, show BitVec.ofNat 4 0 = s.biti from hk.symm]
  obtain ⟨m, l4, rfl, hm, h4⟩ := forall₂_split h
  obtain ⟨m', l3, rfl, hm', h3⟩ := forall₂_split hm
  obtain ⟨l1, l2, rfl, h1, h2⟩ := forall₂_split hm'
  obtain ⟨l, rfl, hl4⟩ := forall₂_singleton h4
  have hw := played_wait (s := s) (ls := l1) .high hb (by simp [hl])
    (fun x hx => (forall₂_replicate h1 x hx).1)
  have hbits := played_rxBits hb (Nat.le_refl 10) h2
  rw [e0] at hbits
  have low := played_rxLow (s := rxAt w 10 s) hb rfl (LevelsAre.congr h3 rfl rfl)
  have hfull : setFrameBit (rxAt w 10 s).shift (rxAt w 10 s).biti.toNat
      (Level.ofBit (w.getLsbD 10)).bit = w := by
    rw [bit_ofBit]
    exact Eq.trans (by simp only [rxAt]; rfl) (shift_full w)
  rw [hfull] at low
  have ret := played_rxReturn (s := { rxAt w 10 s with shift := w, lph := .rxHigh }) (l := l) hb rfl rfl
    ((pinLevels_clk_congr (t := s) rfl l).trans hl4.1)
  exact ((hw.append hbits).append low).append ret

/-- A send that waits for the clock low of period `k`, with the bit before it on the line. -/
def txAt (k : Nat) (s : State) : State :=
  { s with
    hold := 0
    clkPd := false
    dataPd := !txWire s.txbyte (k - 1)
    biti := BitVec.ofNat 4 k
    lph := .txLow }

/-- The periods `1 .. k` of a send. -/
theorem played_txBits {lo hi : Nat → Nat} {s : State} (hb : s.status.busy = true) {k : Nat}
    (hk : k ≤ 10) {ls : List Lines} (hc : ClockIs (sendReturns s) ls (pulses lo hi k)) :
    Played ls (txAt 1 s) (txAt (k + 1) s) [] := by
  induction k generalizing ls with
  | zero => cases hc; exact .nil _
  | succ k ih =>
    have e : pulses lo hi (k + 1) = pulses lo hi k
        ++ (List.replicate (lo k + 1) Level.low ++ List.replicate (hi k + 1) Level.high) := by
      simp [pulses, List.range_succ]
    rw [e] at hc
    obtain ⟨l, m, rfl, hl, hm⟩ := forall₂_split hc
    obtain ⟨m1, m2, rfl, h1, h2⟩ := forall₂_split hm
    have hbi : (BitVec.ofNat 4 (k + 1)).toNat = k + 1 := by simp; omega
    have low := played_txLow (s := txAt (k + 1) s) hb rfl (by simp only [txAt]; omega)
      (by simp only [txAt]; omega) (ClockIs.congr h1 rfl)
    have high := played_txHigh
      (s := { txAt (k + 1) s with
        dataPd := !txWire (txAt (k + 1) s).txbyte (txAt (k + 1) s).biti.toNat, lph := .txHigh })
      hb rfl (by simp only [txAt]; omega) (ClockIs.congr h2 rfl)
    have fin := (ih (by omega) hl).append (low.append high)
    have hi : BitVec.ofNat 4 (k + 1 + 1) = BitVec.ofNat 4 (k + 1) + 1 := by
      rw [BitVec.ofNat_add]; rfl
    simpa only [txAt, hi, hbi, Nat.add_sub_cancel, List.nil_append] using fin

/-- A whole send, from its entry (41_link.md R117, R118): the engine comes to what follows the return of
`link_send`, both lines released, and has sent its byte. -/
theorem played_send {s : State} {pre mid : List Lines} {wait : Nat} {lo hi : Nat → Nat}
    (hb : s.status.busy = true) (hl : s.lph = .txHold) (hn : pre.length = s.hold + 3)
    (hc : ClockIs (sendReturns s) mid (transferClock wait lo hi)) :
    Played (pre ++ mid) s (afterSend (sendReturns s)) [s.txbyte] := by
  have rts := played_rts hb hl hn
  have e1 : ({ s with hold := 0, dataPd := true, clkPd := false, biti := 1, lph := .txLow } : State)
      = txAt 1 s := by simp [txAt]
  rw [e1] at rts
  obtain ⟨m, l4, rfl, hm, h4⟩ := forall₂_split hc
  obtain ⟨m', l3, rfl, hm', h3⟩ := forall₂_split hm
  obtain ⟨l1, l2, rfl, h1, h2⟩ := forall₂_split hm'
  obtain ⟨l, rfl, hl4⟩ := forall₂_singleton h4
  have hw := played_wait (s := txAt 1 s) .high hb (by simp [txAt])
    (forall₂_replicate (ClockIs.congr h1 rfl))
  have ack := played_txAck (s := txAt 11 s) hb rfl rfl (ClockIs.congr h3 rfl)
  have ret := played_txReturn (s := { txAt 11 s with lph := .txHigh }) (l := l) hb rfl rfl
    ((pinLevels_clk_congr (t := sendReturns s) rfl l).trans hl4)
  have fin : idleLink { txAt 11 s with lph := .txHigh } = sendReturns s := by
    simp [idleLink, txAt, sendReturns]
  rw [fin] at ret
  exact rts.append (((hw.append (played_txBits hb (Nat.le_refl 10) h2)).append ack).append ret)

end Sys2Proof.Machine
end

