-- ==== Sys2Proof/Tests/Slice0.lean ====
section
/-! SUPPORT. Tests on single steps, with the results of 95_test_vectors.md, and a witness for the
hypotheses of every statement that has some. -/

namespace Sys2Proof.Tests

open Sys2Proof Sys2Proof.Machine

/-! ## Helpers -/

/-- An input with an access, the lines idle. -/
def inp (a : AccessWord) : Input := { rst := false, access := a, lines := .pins .high .high }

/-- The engine after reset, its key-code buffer cleared, with inputs to come. -/
def idle (ins : List Input) : State :=
  { State.resetWith Config.Params.default ins 0 with keybuf := List.replicate 16 0 }

/-- The state an outcome answers. -/
def answer (o : Host.Outcome State Fault Refusal) : State :=
  match o with
  | .next t => t
  | .fault _ | .refused _ => idle []

/-- The engine with an operation in flight. -/
def busy (op : CmdOp) (c : SeqState) (l : LinkPhase) : State :=
  { idle [inp 0] with
    status := { Status.clear with busy := true }
    op := op.code
    cstate := c
    lph := l }

/-- The last tick of a receive of the word `w`: the eleventh rising edge is on the lines. -/
def received (op : CmdOp) (c : SeqState) (w : FrameWord) : State :=
  { busy op c .rxHigh with biti := 10, shift := w }

/-- The last tick of a send. -/
def sent (op : CmdOp) (c : SeqState) : State := { busy op c .txHigh with biti := 11 }

/-- What the next step leaves. -/
def after (s : State) : State := answer (step s)

/-! ## Well-formedness: one ill-formed configuration for each check -/

theorem test_wf_default : Config.Params.default.wf = true := by decide
theorem test_wf_ticks : ({ Config.Params.default with ticksPerUs := 0 }).wf = false := by decide
theorem test_wf_hold : ({ Config.Params.default with rtsHoldUs := 99 }).wf = false := by decide
theorem test_wf_depth_low : ({ Config.Params.default with keybufDepth := 0 }).wf = false := by decide
theorem test_wf_depth_high : ({ Config.Params.default with keybufDepth := 256 }).wf = false := by
  decide
theorem test_wf_rate_length : ({ Config.Params.default with rateTable := [300, 20] }).wf = false := by
  decide
theorem test_wf_rate_order :
    ({ Config.Params.default with rateTable := 300 :: List.replicate 31 20 }).wf = false := by decide
theorem test_wf_led : ({ Config.Params.default with ledPack := [0, 2, 4, 6, 1, 3, 5] }).wf = false := by
  decide

/-! ## Decoding: words written out from 30_encoding.md R62 and 95_test_vectors.md section 3 -/

theorem test_decode_init : decode 0x20000000001 = .ok (.init false) := by decide
theorem test_decode_recv : decode 0x20000000002 = .ok (.recv false) := by decide
theorem test_decode_send : decode 0x20000000003 = .ok (.send false) := by decide
theorem test_decode_setflags : decode 0x20200000003 = .ok (.setflags false true true false) := by decide
theorem test_decode_getflags : decode 0x10200000000 = .ok .getflags := by decide
theorem test_decode_kenable : decode 0x20000000010 = .ok (.kenable false) := by decide
theorem test_decode_kdisable : decode 0x20000000011 = .ok (.kdisable false) := by decide
theorem test_decode_kdefault : decode 0x20000000012 = .ok (.kdefault false) := by decide
theorem test_decode_kreset : decode 0x20000000013 = .ok (.kreset false) := by decide
theorem test_decode_kresend : decode 0x20000000014 = .ok (.kresend false) := by decide
theorem test_decode_kecho : decode 0x20000000015 = .ok (.kecho false) := by decide
theorem test_decode_kleds : decode 0x20000000016 = .ok (.kleds false) := by decide
theorem test_decode_kscanset : decode 0x20000000017 = .ok (.kscanset false) := by decide
theorem test_decode_krate : decode 0x20000000018 = .ok (.krate false) := by decide
theorem test_decode_kkeys : decode 0x20000000019 = .ok (.kkeys false) := by decide
theorem test_decode_kallkeys : decode 0x2000000001A = .ok (.kallkeys false) := by decide
/-- 95_test_vectors.md 2.2: bits 31 to 8 of a command write are ignored. -/
theorem test_decode_ignored_bits : decode 0x20000000101 = .ok (.init false) := by decide
theorem test_decode_reserved : decode 0x20000000004 = .error (.illegalOpcode false 4) := by decide
theorem test_decode_setflags_dropped_bits :
    decode 0x202FFFFFFFD = .ok (.setflags false true false true) := by decide
theorem test_decode_read : decode 0x10500000000 = .error (.readReg 5) := by decide
theorem test_table_word : decodeTableWord 42 0x20000000019 = some (.kkeys false) := by decide

/-! ## Single steps (95_test_vectors.md sections 2 and 3) -/

theorem test_init : (after (idle [inp 0x20000000101])).status.toWord = 2 := by decide
theorem test_recv : (after (idle [inp 0x20000000002])).status.toWord = 1
    ∧ (after (idle [inp 0x20000000002])).lph = .rxLow := by decide
theorem test_recv_violation : (after (received .recv .link 0x5F4)).status.toWord = 6 := by decide
theorem test_send : (after { idle [inp 0x20000000003] with arg0 := 0x1F4 }).txbyte = 0xF4
    ∧ (after { idle [inp 0x20000000003] with arg0 := 0x1F4 }).hold = 120 := by decide
theorem test_setflags : (after (idle [inp 0x202FFFFFFFD])).vflags = 5 := by decide
theorem test_setflags_busy :
    (after { busy .recv .link .rxLow with inputs := [inp 0x20200000003] }).vflags = 7 := by decide
theorem test_getflags : (after (idle [inp 0x10200000000])).rdata = some 7 := by decide
theorem test_kenable : (after (idle [inp 0x20000000010])).txbyte = 0xF4 := by decide
theorem test_kdisable : (after (idle [inp 0x20000000011])).txbyte = 0xF5 := by decide
theorem test_kdefault : (after (sent .kdefault .sendCmd)).status.toWord = 2 := by decide
theorem test_kreset : (after (received .kreset .awaitResp 0x354)).status.toWord = 6 := by decide
theorem test_kresend : (after (received .kresend .awaitResp 0x438)).res0 = 0x1C := by decide
theorem test_kecho : (after (received .kecho .awaitResp 0x5FC)).res0 = 0xFE := by decide
theorem test_kleds : (after { sent .kleds .sendCmd with arg0 := 1 }).txbyte = 0x02 := by decide
theorem test_kscanset_range :
    (after { idle [inp 0x20000000017] with arg0 := 0x0101 }).status.toWord = 0xE := by decide
theorem test_kscanset_bad_ack : (after (received .kscanset .awaitFirstAck 0x5F4)).status.toWord = 0x2A := by
  decide
theorem test_krate_control : (after { sent .krate .sendCmd with arg0 := 155, arg1 := 625 }).txbyte = 0x27 := by
  decide
theorem test_krate_result : (after { sent .krate .sendParam with arg0 := 0, arg1 := 600 }).res0 = 20
    ∧ (after { sent .krate .sendParam with arg0 := 0, arg1 := 600 }).res1 = 500 := by decide
theorem test_kkeys_selector : (after { idle [inp 0x20000000019] with arg0 := 2 }).txbyte = 0xFC := by decide
theorem test_kkeys_abort :
    (after { received .kkeys .awaitItemAck 0x5FC with keylen := 3, kidx := 1 }).status.toWord = 0x20A := by
  decide
theorem test_kallkeys_selector : (after { idle [inp 0x2000000001A] with arg0 := 1 }).txbyte = 0xF7 := by decide
theorem test_kallkeys_abort : (after (received .kallkeys .awaitFirstAck 0x600)).status.toWord = 0xA := by
  decide
theorem test_illegal : (after (idle [inp 0x2000000001B])).status.toWord = 0x12 := by decide
theorem test_write_arg0 : hostRead (after (idle [inp 0x20300012345])) 3 = 0x2345 := by decide
theorem test_write_keybuf : hostRead (after (idle [inp 0x240000001AB])) 64 = 0xAB := by decide
/-- Program F of 95_test_vectors.md: the reset tick ends a hang. -/
theorem test_reset_ends_a_hang :
    (after { busy .kecho .sendCmd .txLow with
      dataPd := true, inputs := [{ inp 0 with rst := true }] }).dataPd = false := by decide

/-! ## Witnesses: states that meet the hypotheses of each statement together -/

theorem test_inv_idle (ins : List Input) : Inv (idle ins) where
  cfg := by show Config.Params.default.wf = true; decide
  keybuf := by show (List.replicate 16 (0 : Byte)).length = 16; decide
  seqIdle := ⟨fun _ => rfl, fun _ => rfl⟩
  linkIdle := ⟨fun _ => rfl, fun _ => rfl⟩
  clk := rfl
  data := rfl
  rxBit := nofun
  txBit := by rintro (h | h) <;> cases h
  flight := nofun
  unreported := nofun
  detail := fun _ => ⟨rfl, rfl⟩

/-- An idle engine whose operands are set meets the invariant. -/
theorem test_inv_operands (ins : List Input) (a : Half) (n : Byte) :
    Inv { idle ins with arg0 := a, keylen := n } where
  cfg := (test_inv_idle ins).cfg
  keybuf := (test_inv_idle ins).keybuf
  seqIdle := (test_inv_idle ins).seqIdle
  linkIdle := (test_inv_idle ins).linkIdle
  clk := rfl
  data := rfl
  rxBit := nofun
  txBit := by rintro (h | h) <;> cases h
  flight := nofun
  unreported := nofun
  detail := fun _ => ⟨rfl, rfl⟩

/-- The invariant has busy states: a key item being sent, in its last period but one. -/
theorem test_inv_busy :
    Inv { busy .kkeys .sendItem .txHigh with keylen := 3, kidx := 2, biti := 10 } where
  cfg := (test_inv_idle []).cfg
  keybuf := (test_inv_idle []).keybuf
  seqIdle := ⟨nofun, nofun⟩
  linkIdle := ⟨nofun, nofun⟩
  clk := rfl
  data := by decide
  rxBit := nofun
  txBit := fun _ => by decide
  flight := fun _ => ⟨.kkeys, rfl, rfl, nofun, fun _ => rfl, fun _ => by decide, fun _ => by decide, nofun⟩
  unreported := fun _ => ⟨rfl, rfl, rfl⟩
  detail := fun _ => ⟨rfl, rfl⟩

theorem test_witness_DecodeOfEncodeIsTheInstruction : Instr.wf (.setflags true true false true) = true := by
  decide

theorem test_witness_StepRunsTheDecodedInstruction :
    ∃ (s u : State) (i : Instr), s.input.rst = false ∧ decode s.input.access = .ok i
      ∧ exec i s.advance = .next u :=
  ⟨{ busy .recv .link .rxLow with inputs := [inp 0x20000000001] }, _, .init false, rfl, by decide, rfl⟩

theorem test_witness_StepPerformsEveryOtherAccess :
    ∃ (s u : State) (a : OtherAccess), s.input.rst = false ∧ decode s.input.access = .error a
      ∧ otherAccess a s.advance = u :=
  ⟨idle [inp 0x20300000002], _, .writeReg false 3 2, rfl, by decide, rfl⟩

theorem test_witness_PlacedWordIsRunByTheNextStep :
    ∃ (s u : State) (n w : Nat) (i : Instr), s.status.busy = false ∧ decodeTableWord n w = some i
      ∧ exec i { s with ticks := s.ticks + 1, rdata := none } = .next u :=
  ⟨State.reset, _, 42, 0x20000000001, .init false, rfl, by decide, rfl⟩

theorem test_witness_ResetTickRestoresEveryResetValue :
    ∃ s : State, s.input.rst = true :=
  ⟨{ busy .send .link .txHold with inputs := [{ inp 0x20000000001 with rst := true }] }, rfl⟩

theorem test_witness_EveryStepKeepsTheInvariant : ∃ s t : State, Inv s ∧ step s = .next t :=
  ⟨_, _, test_inv_busy, rfl⟩

theorem test_witness_NoStepChangesTheConfiguration : ∃ s t : State, step s = .next t :=
  ⟨idle [inp 0x20000000001], _, rfl⟩

theorem test_witness_ValidationFlagsChangeOnlyByHostWriteOrReset :
    (∃ s t : State, step s = .next t ∧ t.vflags ≠ s.vflags ∧ s.input.rst = false)
    ∧ ∃ s t : State, step s = .next t ∧ t.vflags ≠ s.vflags ∧ s.input.rst = true :=
  ⟨⟨idle [inp 0x20200000003], _, rfl, by decide, rfl⟩,
   ⟨{ idle [{ inp 0 with rst := true }] with vflags := 0 }, _, rfl, by decide, rfl⟩⟩

theorem test_witness_OperandsAreStableWhileBusy :
    ∃ s t : State, s.status.busy = true ∧ s.input.rst = false ∧ step s = .next t :=
  ⟨{ busy .recv .link .rxLow with inputs := [inp 0x20200000003] }, _, rfl, rfl, rfl⟩

theorem test_witness_ResultsAreWrittenOnlyAtAcceptanceAndCompletion :
    (∃ s t : State, s.input.rst = false ∧ step s = .next t ∧ s.status.busy = true ∧ t.status.busy = true)
    ∧ (∃ s t : State, s.input.rst = false ∧ step s = .next t ∧ s.status.busy = true
        ∧ t.status.busy = false)
    ∧ ∃ s t : State, s.input.rst = false ∧ step s = .next t ∧ s.status.busy = false
        ∧ ¬ (Access.we s.input.access = true ∧ Access.idx s.input.access = 0) :=
  ⟨⟨busy .recv .link .rxLow, _, rfl, rfl, rfl, by decide⟩,
   ⟨received .recv .link 0x7F4, _, rfl, rfl, rfl, by decide⟩,
   ⟨idle [inp 0x20300000001], _, rfl, rfl, rfl, by decide⟩⟩

theorem test_witness_HostWritesAreIgnoredWhileBusy :
    ∃ (s : State) (i : Input) (rest : List Input), s.status.busy = true ∧ s.inputs = i :: rest
      ∧ i.rst = false :=
  ⟨{ busy .recv .link .rxLow with inputs := [inp 0x30300000005] }, _, [], rfl, rfl, rfl⟩

/-- Every clause of the result, at the boundaries of the ranges of register numbers. -/
theorem test_witness_HostWriteStoresTheListedBits :
    ∀ idx ∈ [1, 2, 3, 4, 5, 6, 7, 8, 63, 64, 79, 80, 255].map (BitVec.ofNat 8), ∃ (s : State) (v : Word),
      s.status.busy = false ∧ s.input.rst = false ∧ s.input.access = Access.make true true idx v
        ∧ idx ≠ 0 ∧ Memory.wf s.cfg.keybufDepth s.keybuf := by
  intro idx h
  refine ⟨idle [inp (Access.make true true idx 0x12345)], 0x12345, rfl, rfl, rfl, ?_,
    (test_inv_idle []).keybuf⟩
  rintro rfl
  simp at h

theorem test_witness_HostReadReturnsTheRegisterAndChangesNothing (idx : BitVec 8) :
    ∃ (s : State) (v : Word), s.status.busy = false ∧ s.input.rst = false
      ∧ s.input.access = Access.make false true idx v :=
  ⟨idle [inp (Access.make false true idx 0)], 0, rfl, rfl, rfl⟩

theorem test_witness_ReservedOpcodeIsIllegalOperation :
    ∀ v ∈ [0x00, 0x04, 0x0F, 0x1B, 0xFF, 0xFFFFFF00].map (BitVec.ofNat 32),
      ∃ (s : State) (opc : Byte), s.status.busy = false ∧ s.lph = .idle ∧ s.cstate = .idle
        ∧ s.input.rst = false ∧ s.input.access = Access.make true false 0 v ∧ opc = v.setWidth 8
        ∧ (opc.toNat = 0 ∨ (4 ≤ opc.toNat ∧ opc.toNat ≤ 0x0F) ∨ 0x1B ≤ opc.toNat) := by
  intro v h
  refine ⟨idle [inp (Access.make true false 0 v)], v.setWidth 8, rfl, rfl, rfl, rfl, rfl, rfl, ?_⟩
  simp only [List.map_cons, List.map_nil, List.mem_cons, List.not_mem_nil, or_false] at h
  rcases h with rfl | rfl | rfl | rfl | rfl | rfl <;> decide

theorem test_witness_SelectClosestIsTheLowestNearestIndex :
    Config.delayTable ≠ [] ∧ selectClosest Config.delayTable 375 = 0
      ∧ selectClosest Config.delayTable 876 = 3 := by decide

theorem test_witness_TypematicExamplesHoldForEveryRateTable :
    Config.Params.default.wf = true ∧ 300 ≤ (300 : Half).toNat ∧ (20 : Half).toNat ≤ 20 := by decide

theorem test_witness_ControlByteFields : controlByte 31 3 = 0x7F ∧ controlByte 0 0 = 0 := by decide

/-- An idle engine: the hypothesis of the statements on acceptance. -/
theorem test_witness_acceptance : (idle []).status.busy = false := rfl

theorem test_witness_SetflagsWritesTheThreeFlags :
    (∃ s : State, s.status.busy = false) ∧ ∃ s : State, s.status.busy = true :=
  ⟨⟨idle [], rfl⟩, ⟨busy .recv .link .rxLow, rfl⟩⟩

theorem test_witness_KscansetAcceptsOneToThreeOnly :
    ∀ a ∈ [0, 1, 3, 4, 0x0101, 0xFFFF].map (BitVec.ofNat 16), ∃ s : State, s.status.busy = false
      ∧ s.arg0 = a ∧ ((1 ≤ a.toNat ∧ a.toNat ≤ 3) ∨ a.toNat = 0 ∨ 4 ≤ a.toNat) :=
  fun a _ => ⟨{ idle [] with arg0 := a }, rfl, rfl, by omega⟩

theorem test_witness_KkeysAcceptsAListThatFits :
    ∀ n ∈ [0, 16, 17, 255].map (BitVec.ofNat 8), ∃ s : State, s.status.busy = false ∧ s.keylen = n
      ∧ (s.keylen.toNat ≤ s.cfg.keybufDepth ∨ s.cfg.keybufDepth < s.keylen.toNat) :=
  fun n _ => ⟨{ idle [] with keylen := n }, rfl, rfl, by omega⟩

theorem test_witness_CommandWriteWhileBusyDoesNothing :
    (busy .recv .link .rxLow).status.busy = true := rfl

/-- One state for each row of the receive table. -/
theorem test_witness_ReceivePhaseRows :
    (busy .recv .link .rxLow).lph = .rxLow ∧ (busy .recv .link .rxHigh).lph = .rxHigh
      ∧ ({ busy .recv .link .rxHigh with biti := 9 }).biti.toNat < 10
      ∧ (received .recv .link 0).biti = 10 := by decide

/-- One state for each row of the send table. -/
theorem test_witness_SendPhaseRows :
    0 < ({ busy .send .link .txHold with hold := 1 }).hold ∧ (busy .send .link .txHold).hold = 0
      ∧ (busy .send .link .txRtsData).lph = .txRtsData ∧ (busy .send .link .txRtsRel).lph = .txRtsRel
      ∧ (∀ k ∈ [1, 10].map (BitVec.ofNat 4), 1 ≤ k.toNat ∧ k.toNat ≤ 10)
      ∧ ({ busy .send .link .txLow with biti := 11 }).biti = 11
      ∧ ({ busy .send .link .txHigh with biti := 10 }).biti.toNat < 11
      ∧ (sent .send .link).biti = 11 := by decide

theorem test_witness_RequestToSendHoldsTheClockThenPullsData :
    ∃ (s : State) (ins rest : List Input), s.status.busy = true ∧ s.lph = .txHold ∧ s.clkPd = true
      ∧ s.dataPd = false ∧ s.inputs = ins ++ rest ∧ ins.length = s.hold + 3 ∧ ∀ i ∈ ins, i.rst = false :=
  ⟨{ busy .send .link .txHold with clkPd := true, hold := 1, inputs := List.replicate 4 (inp 0) },
    List.replicate 4 (inp 0), [], rfl, rfl, rfl, rfl, rfl, rfl, by decide⟩

theorem test_witness_EverySendHoldsAtLeastTheMinimum : (idle []).cfg.wf = true :=
  (test_inv_idle []).cfg

/-- A device that never pulls the wired clock, and pins that stay low. -/
theorem test_witness_SilentDeviceHangsTheOperation :
    (∃ (s : State) (ins rest : List Input) (ls : List Lines), s.status.busy = true
      ∧ (s.lph = .rxLow ∨ s.lph = .txLow) ∧ s.inputs = ins ++ rest ∧ Plays ins ls
      ∧ ClockIs s ls (List.replicate ls.length .high))
    ∧ ∃ (s : State) (ins rest : List Input) (ls : List Lines), s.status.busy = true
      ∧ (s.lph = .rxHigh ∨ s.lph = .txHigh) ∧ s.inputs = ins ++ rest ∧ Plays ins ls
      ∧ ClockIs s ls (List.replicate ls.length .low) :=
  ⟨⟨{ busy .recv .link .rxLow with inputs := List.replicate 2 (accessInput 0x20000000001) },
      List.replicate 2 (accessInput 0x20000000001), [], _, rfl, .inl rfl, rfl, ⟨rfl, by decide⟩,
      clockIs_wired rfl .high [.high, .high]⟩,
   ⟨{ busy .recv .link .txHigh with inputs := [{ inp 0 with lines := .pins .low .high }] },
      [{ inp 0 with lines := .pins .low .high }], [], _, rfl, .inr rfl, rfl, ⟨rfl, by decide⟩,
      clockIs_pins _ .high [.low]⟩⟩

/-- The acknowledge bit of a send, and a poll of a receive that sees the clock high. -/
theorem test_witness_DataPinMattersOnlyToAReceiveSample :
    (∃ (s : State) (i : Input) (rest : List Input), s.inputs = i :: rest ∧ s.lph ≠ .rxLow)
    ∧ ∃ (s : State) (i : Input) (rest : List Input), s.inputs = i :: rest ∧ s.lph = .rxLow
      ∧ s.clkPd = false :=
  ⟨⟨{ busy .send .link .txLow with biti := 11 }, inp 0, [], rfl, by decide⟩,
   ⟨busy .recv .link .rxLow, inp 0, [], rfl, rfl, rfl⟩⟩

/-- A send in its periods, one of its bits on the line. -/
def sending (l : LinkPhase) (k : BitVec 4) (pd : Bool) : State :=
  { busy .send .link l with biti := k, dataPd := pd }

theorem test_inv_sending (l : LinkPhase) (k : BitVec 4) (pd : Bool)
    (hl : l = .txLow ∨ l = .txHigh ∨ l = .txRtsRel ∧ pd = true)
    (hk : 1 ≤ k.toNat ∧ k.toNat ≤ 11) (hp : pd = !hostBit (sending l k pd)) :
    Inv { sending l k pd with clkPd := l.pullsClock } where
  cfg := (test_inv_idle []).cfg
  keybuf := (test_inv_idle []).keybuf
  seqIdle := ⟨nofun, nofun⟩
  linkIdle := ⟨by rintro rfl; simp at hl, nofun⟩
  clk := rfl
  data := hp
  rxBit := by rcases hl with rfl | rfl | ⟨rfl, -⟩ <;> nofun
  txBit := fun _ => hk
  flight := fun _ => ⟨.send, rfl, rfl, nofun, fun _ => by rcases hl with rfl | rfl | ⟨rfl, -⟩ <;> rfl,
    (by rintro (h | h) <;> cases h), nofun, nofun⟩
  unreported := fun _ => ⟨rfl, rfl, rfl⟩
  detail := fun _ => ⟨rfl, rfl⟩

/-- A state for each clause: the request-to-send, periods 1 and 10 in both their phases, period 11, and
the phases in which nothing is driven (the byte sent is 0, its parity bit 1). -/
theorem test_witness_WiredDataLineCarriesTheSentBit :
    (∃ s : State, Inv s ∧ s.lph = .txRtsRel)
    ∧ (∃ s : State, Inv s ∧ s.lph = .txLow ∧ s.biti = 1)
    ∧ (∃ s : State, Inv s ∧ s.lph = .txHigh ∧ s.biti.toNat = 1)
    ∧ (∃ s : State, Inv s ∧ s.lph = .txLow ∧ s.biti.toNat = 1 + 1)
    ∧ (∃ s : State, Inv s ∧ s.lph = .txHigh ∧ s.biti.toNat = 10)
    ∧ (∃ s : State, Inv s ∧ s.lph = .txLow ∧ s.biti.toNat = 10 + 1)
    ∧ (∃ s : State, Inv s ∧ s.lph = .txHigh ∧ s.biti = 11)
    ∧ ∃ s : State, Inv s ∧ s.lph = .idle :=
  ⟨⟨_, test_inv_sending .txRtsRel 1 true (by decide) (by decide) (by decide), rfl⟩,
   ⟨_, test_inv_sending .txLow 1 true (by decide) (by decide) (by decide), rfl, rfl⟩,
   ⟨_, test_inv_sending .txHigh 1 true (by decide) (by decide) (by decide), rfl, rfl⟩,
   ⟨_, test_inv_sending .txLow 2 true (by decide) (by decide) (by decide), rfl, rfl⟩,
   ⟨_, test_inv_sending .txHigh 10 false (by decide) (by decide) (by decide), rfl, rfl⟩,
   ⟨_, test_inv_sending .txLow 11 false (by decide) (by decide) (by decide), rfl, rfl⟩,
   ⟨_, test_inv_sending .txHigh 11 false (by decide) (by decide) (by decide), rfl, rfl⟩,
   ⟨_, test_inv_idle [], rfl⟩⟩

/-- The five error codes of 60_exceptions.md R160. -/
theorem test_error_codes : [ErrCode.noError, .framingViolation, .protocolAbort, .invalidArgument,
    .illegalOperation].map ErrCode.code = [0, 1, 2, 3, 4] := by decide

/-- The inputs in which a device drives the wired lines, with no access. -/
def playing (ps : List (Level × Level)) : List Input :=
  ps.map fun p => { rst := false, access := 0, lines := .wired p.1 p.2 }

theorem test_plays (ps : List (Level × Level)) :
    Plays (playing ps) (ps.map fun p => Lines.wired p.1 p.2) := by
  refine ⟨by simp [playing], ?_⟩
  intro i hi
  simp only [playing, List.mem_map] at hi
  obtain ⟨p, -, rfl⟩ := hi
  rfl

/-- The inputs in which a device drives the wired lines, its data line low where any level will do. -/
def framing (ps : List (Level × Option Level)) : List (Level × Level) :=
  ps.map fun p => (p.1, p.2.getD .low)

theorem test_plays_framing (ps : List (Level × Option Level)) :
    Plays (playing (framing ps)) (ps.map fun p => Lines.wired p.1 (p.2.getD .low)) := by
  have h := test_plays (framing ps)
  rwa [framing, List.map_map] at h

/-- Line 1 of Program A of 95_test_vectors.md: each pulse is high 1, low 2, high 1, with the data line at
`w[i]` in all four ticks of pulse `i`. It is a device under P-RX. -/
theorem test_program_a_is_a_frame :
    LevelsAre (idle []) ((List.range 11).flatMap fun i =>
        [Level.high, .low, .low, .high].map fun c => .wired c (Level.ofBit ((0x5F4 : FrameWord).getLsbD i)))
      (frameLevels 0x5F4 1 (fun _ => 1) (fun _ => 1)) := by
  unfold LevelsAre
  decide

/-- Any frame word on the wired lines after a RECV. -/
theorem test_witness_RecvReturnsTheWordTheDeviceSends (w : FrameWord) :
    ∃ (s : State) (i : Input) (ins rest : List Input) (ls : List Lines), Inv s ∧ s.status.busy = false
      ∧ s.inputs = i :: ins ++ rest ∧ i.rst = false ∧ decode i.access = .ok (.recv false)
      ∧ Plays ins ls ∧ LevelsAre s ls (frameLevels w 1 (fun _ => 0) (fun _ => 1)) :=
  ⟨idle (inp 0x20000000002 :: playing (framing (frameLevels w 1 (fun _ => 0) (fun _ => 1))) ++ []), _, _, [],
    _, test_inv_idle _, rfl, rfl, rfl, by decide, test_plays_framing _, levelsAre_wired rfl rfl _ _⟩

theorem test_witness_SendCompletesAfterElevenPulses :
    ∃ (s : State) (i : Input) (pre mid rest : List Input) (ls ms : List Lines), Inv s
      ∧ s.status.busy = false ∧ s.inputs = i :: (pre ++ mid) ++ rest ∧ i.rst = false
      ∧ decode i.access = .ok (.send false)
      ∧ pre.length = s.cfg.rtsHoldUs * s.cfg.ticksPerUs + 3 ∧ Plays pre ls ∧ Plays mid ms
      ∧ ClockIs s ms (transferClock 2 (fun _ => 1) (fun _ => 1)) := by
  have hm := test_plays ((transferClock 2 (fun _ => 1) (fun _ => 1)).map fun c => (c, .high))
  rw [List.map_map] at hm
  exact ⟨idle (inp 0x20000000003 :: (playing (List.replicate 123 (.high, .high))
      ++ playing ((transferClock 2 (fun _ => 1) (fun _ => 1)).map fun c => (c, .high))) ++ []),
    _, _, _, [], _, _, test_inv_idle _, rfl, rfl, rfl, by decide,
    by simp [playing, idle, State.resetWith, Config.Params.default], test_plays _, hm,
    clockIs_wired rfl .high _⟩

/-- A send, and a receive, as one link call. The second statement has the same hypotheses. -/
theorem test_witness_MicroStepsCarryOutTheLinkCalls :
    (∃ (s : State) (ins rest : List Input) (ls : List Lines), s.status.busy = true
      ∧ (s.lph = .rxLow → s.shift = 0 ∧ s.biti = 0) ∧ s.inputs = ins ++ rest ∧ Plays ins ls
      ∧ CallLines 1 [] s ls ∧ s.lph = .txHold)
    ∧ ∃ (s : State) (ins rest : List Input) (ls : List Lines), s.status.busy = true
      ∧ (s.lph = .rxLow → s.shift = 0 ∧ s.biti = 0) ∧ s.inputs = ins ++ rest ∧ Plays ins ls
      ∧ CallLines 1 [0x7F4] s ls ∧ s.lph = .rxLow := by
  have hm := test_plays (List.replicate 3 (.high, .high)
    ++ (transferClock 0 (fun _ => 0) (fun _ => 0)).map fun c => (c, .high))
  rw [List.map_append, List.map_map] at hm
  exact ⟨⟨{ busy .send .link .txHold with inputs := playing _ ++ [] }, _, [], _, rfl, nofun, rfl, hm,
      ⟨_, _, [], 0, fun _ => 0, fun _ => 0, (List.append_nil _).symm, rfl, clockIs_wired rfl .high _, rfl⟩,
      rfl⟩,
    ⟨{ busy .recv .link .rxLow with
        inputs := playing (framing (frameLevels 0x7F4 0 (fun _ => 0) (fun _ => 0))) ++ [] }, _, [], _, rfl,
      fun _ => ⟨rfl, rfl⟩, rfl, test_plays_framing _,
      ⟨_, [], 0, fun _ => 0, fun _ => 0, (List.append_nil _).symm, levelsAre_wired rfl rfl _ _, rfl⟩, rfl⟩⟩

/-- The lines of a whole KENABLE with the shortest hold: its hypotheses hold, and its link calls send one
byte. -/
theorem test_witness_RunPutsTheBytesOfItsLinkCallsOnTheWire :
    ∃ (s : State) (ins rest : List Input) (ls : List Lines), s.status.busy = true
      ∧ (s.lph = .rxLow → s.shift = 0 ∧ s.biti = 0) ∧ s.inputs = ins ++ rest ∧ Plays ins ls
      ∧ CallLines 1 [] s ls ∧ (callRun 1 [] s).1 = [0xF4] := by
  have hm := test_plays (List.replicate 3 (.high, .high)
    ++ (transferClock 0 (fun _ => 0) (fun _ => 0)).map fun c => (c, .high))
  rw [List.map_append, List.map_map] at hm
  exact ⟨{ busy .kenable .sendCmd .txHold with txbyte := 0xF4, inputs := playing _ ++ [] }, _, [], _, rfl,
    nofun, rfl, hm,
    ⟨_, _, [], 0, fun _ => 0, fun _ => 0, (List.append_nil _).symm, rfl, clockIs_wired rfl .high _, rfl⟩,
    rfl⟩

theorem test_witness_ReceivedByteOrViolationIsPosted :
    (received .recv .link 0).cstate = .link ∧ (received .kecho .awaitResp 0).cstate = .awaitResp :=
  ⟨rfl, rfl⟩

theorem test_witness_FailedAckAbortsTheCommand :
    (0xFE : Byte) ≠ 0xFA ∧ (received .kkeys .awaitFirstAck 0).cstate = .awaitFirstAck
      ∧ (received .kkeys .awaitItemAck 0).cstate = .awaitItemAck := by decide

/-- A state for each arrow that follows a send: its sequencer state and its opcode. -/
theorem test_witness_SequencerArrowsAfterASend :
    (∀ op ∈ CmdOp.all, (sent op .sendCmd).cstate = .sendCmd ∧ (sent op .sendCmd).op = op.code)
      ∧ (∀ op ∈ [CmdOp.kscanset, .kleds, .krate], (sent op .sendParam).cstate = .sendParam
          ∧ (sent op .sendParam).op = op.code)
      ∧ (sent .send .link).cstate = .link ∧ (sent .kkeys .sendTerm).cstate = .sendTerm
      ∧ (sent .kkeys .sendItem).cstate = .sendItem := by decide

/-- A state for each arrow that follows an ACK; the list has its boundary lengths. -/
theorem test_witness_SequencerArrowsAfterAnAck :
    (∀ op ∈ [CmdOp.kscanset, .kallkeys, .kkeys], (received op .awaitFirstAck 0x7F4).cstate = .awaitFirstAck
        ∧ (received op .awaitFirstAck 0x7F4).op = op.code)
      ∧ (received .kkeys .awaitFirstAck 0x7F4).keylen = 0
      ∧ ({ received .kkeys .awaitFirstAck 0x7F4 with keylen := 1 }).keylen ≠ 0
      ∧ (let s := { received .kkeys .awaitItemAck 0x7F4 with keylen := 2 }; s.kidx.toNat + 1 < s.keylen.toNat)
      ∧ (let s := { received .kkeys .awaitItemAck 0x7F4 with keylen := 2, kidx := 1 };
          s.kidx.toNat + 1 = s.keylen.toNat) := by decide

/-- Each command is accepted by an idle engine that meets the invariant: the hypotheses of the
statements on the traffic of the commands without an argument check. -/
theorem test_witness_FireAndForgetCommandsSendOneByte :
    ∃ s u v w : State, Inv s ∧ s.status.busy = false ∧ exec (.kenable false) s = .next u
      ∧ exec (.kdisable false) s = .next v ∧ exec (.kdefault false) s = .next w :=
  ⟨idle [], _, _, _, test_inv_idle [], rfl, exec_eq _ _, exec_eq _ _, exec_eq _ _⟩

theorem test_witness_ResponseCommandsReturnOneByte :
    ∃ s u v w : State, Inv s ∧ s.status.busy = false ∧ exec (.kreset false) s = .next u
      ∧ exec (.kresend false) s = .next v ∧ exec (.kecho false) s = .next w :=
  ⟨idle [], _, _, _, test_inv_idle [], rfl, exec_eq _ _, exec_eq _ _, exec_eq _ _⟩

theorem test_witness_LedsAndRateSendTwoBytesWithoutWaiting :
    ∃ s u v : State, Inv s ∧ s.status.busy = false ∧ exec (.kleds false) s = .next u
      ∧ exec (.krate false) s = .next v :=
  ⟨idle [], _, _, test_inv_idle [], rfl, exec_eq _ _, exec_eq _ _⟩

/-- An acknowledgment and two failures of one (95_test_vectors.md 2.3.5). -/
theorem test_witness_ack : IsAck (idle []) 0x7F4 ∧ ¬ IsAck (idle []) 0x5FC ∧ ¬ IsAck (idle []) 0x5F4 := by
  unfold IsAck
  decide

theorem test_witness_KscansetSendsItsParameterOnlyAfterAnAck :
    ∀ a ∈ [1, 3].map (BitVec.ofNat 16), ∃ s u : State, Inv s ∧ s.status.busy = false
      ∧ 1 ≤ s.arg0.toNat ∧ s.arg0.toNat ≤ 3 ∧ exec (.kscanset false) s = .next u
      ∧ IsAck s 0x7F4 ∧ ¬ IsAck s 0x5FC := by
  intro a h
  have hr : 1 ≤ a.toNat ∧ a.toNat ≤ 3 := by
    simp only [List.map_cons, List.map_nil, List.mem_cons, List.not_mem_nil, or_false] at h
    rcases h with rfl | rfl <;> decide
  exact ⟨{ idle [] with arg0 := a, keylen := 0 }, _, test_inv_operands [] a 0, rfl, hr.1, hr.2, exec_eq _ _,
    test_witness_ack.1, test_witness_ack.2.1⟩

theorem test_witness_KallkeysSendsSelectorThenTerminator :
    ∃ s u : State, Inv s ∧ s.status.busy = false ∧ exec (.kallkeys false) s = .next u
      ∧ IsAck s 0x7F4 ∧ ¬ IsAck s 0x5F4 :=
  ⟨idle [], _, test_inv_idle [], rfl, exec_eq _ _, test_witness_ack.1, test_witness_ack.2.2⟩

/-- Lists of no item and of the buffer's whole length. -/
theorem test_witness_KkeysSendsSelectorListTerminator :
    ∀ n ∈ [0, 16].map (BitVec.ofNat 8), ∃ (s u : State) (acks : List FrameWord), Inv s
      ∧ s.status.busy = false ∧ s.keylen.toNat ≤ s.cfg.keybufDepth ∧ exec (.kkeys false) s = .next u
      ∧ acks.length = s.keylen.toNat + 1 ∧ ∀ w ∈ acks, IsAck s w := by
  intro n h
  have hn : n.toNat ≤ 16 := by
    simp only [List.map_cons, List.map_nil, List.mem_cons, List.not_mem_nil, or_false] at h
    rcases h with rfl | rfl <;> decide
  refine ⟨{ idle [] with arg0 := 3, keylen := n }, _, List.replicate (n.toNat + 1) 0x7F4,
    test_inv_operands [] 3 n, rfl, hn, exec_eq _ _, by simp, fun w hw => ?_⟩
  rw [List.eq_of_mem_replicate hw]
  exact test_witness_ack.1

/-- The selector's ACK fails, and the ACK of the last of three items. -/
theorem test_witness_KkeysAbortsAtTheFirstFailedAck :
    ∀ k ∈ [0, 3], ∃ (s u : State) (acks : List FrameWord) (w : FrameWord), Inv s
      ∧ s.status.busy = false ∧ s.keylen.toNat ≤ s.cfg.keybufDepth ∧ exec (.kkeys false) s = .next u
      ∧ acks.length = k ∧ acks.length ≤ s.keylen.toNat ∧ (∀ a ∈ acks, IsAck s a) ∧ ¬ IsAck s w := by
  intro k h
  have hk : k ≤ 3 := by revert k; decide
  refine ⟨{ idle [] with arg0 := 3, keylen := 3 }, _, List.replicate k 0x7F4, 0x5FC,
    test_inv_operands [] 3 3, rfl, by decide, exec_eq _ _, by simp, by simpa using hk, fun w hw => ?_,
    test_witness_ack.2.1⟩
  rw [List.eq_of_mem_replicate hw]
  exact test_witness_ack.1

end Sys2Proof.Tests
end

section
/-! The invariant of the engine, configuration, flags, host registers after reset, the layout of `STATUS`
and the data line (10_state.md). An idle engine is described by `AtRest`, one whose link call has just
returned by `Between`; both are tied to `Inv` by lemmas, and each start of a link call and each report is
one rule. -/

namespace Sys2Proof.Machine

/-! ## The engine at rest -/

/-- What the invariant says of an idle engine. -/
structure AtRest (s : State) : Prop where
  cfg : s.cfg.wf = true
  keybuf : Memory.wf s.cfg.keybufDepth s.keybuf
  busy : s.status.busy = false
  cstate : s.cstate = .idle
  lph : s.lph = .idle
  clkPd : s.clkPd = false
  dataPd : s.dataPd = false
  detail : s.status.err ≠ .protocolAbort → s.status.ackfv = false ∧ s.status.astep = 0

@[simp] theorem hostBit_of_idle {s : State} (h : s.lph = .idle) : hostBit s = true := by
  simp [hostBit, h]

theorem AtRest.inv {s : State} (h : AtRest s) : Inv s where
  cfg := h.cfg
  keybuf := h.keybuf
  seqIdle := by simp [h.cstate, h.busy]
  linkIdle := by simp [h.lph, h.busy]
  clk := by simp [h.clkPd, h.lph, LinkPhase.pullsClock]
  data := by simp [h.dataPd, h.lph]
  rxBit := by simp [h.lph, LinkPhase.receiving]
  txBit := by simp [h.lph]
  flight := by simp [h.busy]
  unreported := by simp [h.busy]
  detail := h.detail

theorem Inv.atRest {s : State} (h : Inv s) (hb : s.status.busy = false) : AtRest s :=
  have hl := h.linkIdle.mpr hb
  { cfg := h.cfg
    keybuf := h.keybuf
    busy := hb
    cstate := h.seqIdle.mpr hb
    lph := hl
    clkPd := by simp [h.clk, hl, LinkPhase.pullsClock]
    dataPd := by simp [h.data, hl]
    detail := h.detail }

theorem resetWith_atRest {cfg : Config.Params} (h : cfg.wf = true) (ins : List Input) (n : Nat) :
    AtRest (State.resetWith cfg ins n) :=
  ⟨h, resetWith_wf cfg ins n, rfl, rfl, rfl, rfl, rfl, fun _ => ⟨rfl, rfl⟩⟩

theorem AtRest.withPorts {s : State} (h : AtRest s) (r : Option Word) (ins : List Input) (n : Nat) :
    AtRest (s.withPorts r ins n) :=
  { h with }

theorem AtRest.readPort {s : State} (h : AtRest s) (re : Bool) (idx : BitVec 8) :
    AtRest (readPort re idx s) := by
  cases re
  · exact h
  · exact h.withPorts (some (hostRead s idx)) s.inputs s.ticks

/-- A store touches flags, operands and key buffer only, and keeps the form of the buffer. -/
theorem AtRest.storeReg {s : State} (h : AtRest s) (r : HostReg) (v : Word) :
    AtRest (storeReg s r v) := by
  have hk := storeReg_wf h.keybuf r v
  rw [storeReg_frame]
  exact { h with keybuf := hk }

/-- A report over released lines leaves the engine at rest; `ACKFV` and `ASTEP` belong to ProtocolAbort
(10_state.md R26). -/
theorem post_atRest (s : State) {r : Report} (hc : s.cfg.wf = true)
    (hk : Memory.wf s.cfg.keybufDepth s.keybuf) (clk : s.clkPd = false) (data : s.dataPd = false)
    (hr : r.err ≠ .protocolAbort → r.ackfv = false ∧ r.astep = 0) : AtRest (post r s) :=
  ⟨hc, hk, rfl, rfl, rfl, clk, data, hr⟩

/-! ## Between two link calls -/

/-- The engine between two link calls of the operation `op`: both lines released, nothing reported, the
sequencer at a state of the operation (42_commands.md R146). -/
structure Between (op : CmdOp) (s : State) : Prop where
  cfg : s.cfg.wf = true
  keybuf : Memory.wf s.cfg.keybufDepth s.keybuf
  clkPd : s.clkPd = false
  dataPd : s.dataPd = false
  status : s.status = { Status.clear with busy := true }
  res0 : s.res0 = 0
  res1 : s.res1 = 0
  opcode : s.op = op.code
  visits : opVisits op s.cstate = true
  item : s.cstate = .sendItem ∨ s.cstate = .awaitItemAck → s.kidx.toNat < s.keylen.toNat
  list : op = .kkeys → keylenOk s = true
  set : op = .kscanset → scanSetOk s = true

theorem cstate_ne_idle_of_visits {op : CmdOp} {c : SeqState} (h : opVisits op c = true) : c ≠ .idle := by
  rintro rfl
  cases op <;> exact absurd h (by decide)

section
variable {op : CmdOp} {s : State}

theorem Between.post (h : Between op s) {r : Report}
    (hr : r.err ≠ .protocolAbort → r.ackfv = false ∧ r.astep = 0) : Inv (post r s) :=
  (post_atRest _ h.cfg h.keybuf h.clkPd h.dataPd hr).inv

/-- The next sequencer state of the operation; the states of an item want a list index in the list. -/
theorem Between.enter (h : Between op s) {c : SeqState} (hv : opVisits op c = true)
    (hi : c = .sendItem ∨ c = .awaitItemAck → s.kidx.toNat < s.keylen.toNat) :
    Between op (enter c s) :=
  { h with visits := hv, item := hi }

/-- The first poll of a receive is ahead: the pulldowns are released and the bit index is 0. -/
theorem Between.startRecv (h : Between op s) (hd : opReceivesIn op s.cstate = true) :
    Inv (startRecv s) where
  cfg := h.cfg
  keybuf := h.keybuf
  seqIdle := by simp [h.status, cstate_ne_idle_of_visits h.visits]
  linkIdle := by simp [h.status]
  clk := h.clkPd
  data := h.dataPd
  rxBit := fun _ => Nat.zero_le _
  txBit := by simp
  flight := fun _ => ⟨op, h.opcode, h.visits, fun _ => rfl, by simp [hd], h.item, h.list, h.set⟩
  unreported := fun _ => ⟨h.status, h.res0, h.res1⟩
  detail := by simp [h.status, Status.clear]

/-- The request-to-send has begun: the clock is pulled and the data line is still released. -/
theorem Between.startSend (h : Between op s) (hd : opReceivesIn op s.cstate = false) (d : Byte) :
    Inv (startSend d s) where
  cfg := h.cfg
  keybuf := h.keybuf
  seqIdle := by simp [h.status, cstate_ne_idle_of_visits h.visits]
  linkIdle := by simp [h.status]
  clk := rfl
  data := h.dataPd
  rxBit := by simp [LinkPhase.receiving]
  txBit := by simp
  flight := fun _ => ⟨op, h.opcode, h.visits, by simp [hd], fun _ => rfl, h.item, h.list, h.set⟩
  unreported := fun _ => ⟨h.status, h.res0, h.res1⟩
  detail := by simp [h.status, Status.clear]

end

/-! ## Acceptance -/

/-- An operation accepted by an engine at rest enters its first sequencer state. -/
theorem AtRest.begin {s : State} (h : AtRest s) (op : CmdOp) (c : SeqState)
    (hv : opVisits op c = true) (hi : c ≠ .sendItem ∧ c ≠ .awaitItemAck)
    (hl : op = .kkeys → keylenOk s = true) (hs : op = .kscanset → scanSetOk s = true) :
    Between op (begin c (accept op.code s)) :=
  ⟨h.cfg, h.keybuf, h.clkPd, h.dataPd, rfl, rfl, rfl, rfl, hv,
    fun hc => (hc.elim hi.1 hi.2).elim, hl, hs⟩

/-- A report in the acceptance step leaves the engine at rest. -/
theorem AtRest.post_accept {s : State} (h : AtRest s) (opc : Byte) {r : Report}
    (hr : r.err ≠ .protocolAbort → r.ackfv = false ∧ r.astep = 0) : Inv (post r (accept opc s)) :=
  (post_atRest (accept opc s) h.cfg h.keybuf h.clkPd h.dataPd hr).inv

/-- A keyboard command whose arguments pass sends its first byte. -/
theorem AtRest.sendFirst {s : State} (h : AtRest s) (op : CmdOp) (hv : opVisits op .sendCmd = true)
    (hl : op = .kkeys → keylenOk s = true) (hs : op = .kscanset → scanSetOk s = true) (d : Byte) :
    Inv (sendFirst d (accept op.code s)) :=
  (h.begin op .sendCmd hv ⟨nofun, nofun⟩ hl hs).startSend rfl d

/-- What an accepted operation starts keeps the invariant (41_link.md R101). -/
theorem AtRest.opStart {s : State} (h : AtRest s) (op : CmdOp) :
    Inv (opStart op (accept op.code s)) := by
  cases op with
  | init =>
    exact (post_atRest (r := {}) (releasePulldowns (accept _ s)) h.cfg h.keybuf rfl rfl
      fun _ => ⟨rfl, rfl⟩).inv
  | recv => exact (h.begin .recv .link rfl ⟨nofun, nofun⟩ nofun nofun).startRecv rfl
  | send => exact (h.begin .send .link rfl ⟨nofun, nofun⟩ nofun nofun).startSend rfl _
  | kscanset =>
    simp only [Machine.opStart]
    split
    next hs => exact h.sendFirst .kscanset rfl nofun (fun _ => hs) _
    next => exact h.post_accept _ fun _ => ⟨rfl, rfl⟩
  | kkeys =>
    simp only [Machine.opStart]
    split
    next hl => exact h.sendFirst .kkeys rfl (fun _ => hl) nofun _
    next => exact h.post_accept _ fun _ => ⟨rfl, rfl⟩
  | kenable | kdisable | kdefault | kreset | kresend | kecho | kleds | krate | kallkeys =>
    exact h.sendFirst _ (by rfl) (by nofun) (by nofun) _

/-- Any access of an idle engine's host keeps the invariant. -/
theorem AtRest.accessEffect {s : State} (h : AtRest s) (a : AccessWord) : Inv (accessEffect a s) := by
  have hp : AtRest { s with rdata := cmdRead (Access.re a) s } := h.withPorts _ s.inputs s.ticks
  have hc := accessEffect_idle h.busy a
  generalize Machine.accessEffect a s = t at hc
  cases hc with
  | read => exact (h.readPort _ _).inv
  | store => exact ((h.readPort _ _).storeReg _ _).inv
  | operation _ _ op => exact hp.opStart op
  | illegal => exact hp.post_accept _ fun _ => ⟨rfl, rfl⟩

/-! ## Sequencing between link calls -/

theorem withOp_of_opcode {op : CmdOp} {s : State} (h : s.op = op.code) (row : CmdOp → State → State) :
    withOp row s = row op s := by
  simp [withOp, h]

/-- The sequencer states of a list item are KKEYS's alone. -/
theorem eq_kkeys_of_visits_item {op : CmdOp} {c : SeqState} (h : opVisits op c = true)
    (hc : c = .sendItem ∨ c = .awaitItemAck) : op = .kkeys := by
  rcases hc with rfl | rfl
  all_goals
    cases op with
    | kkeys => rfl
    | _ => exact absurd h (by decide)

section
variable {op : CmdOp} {s : State}

/-- The next item is in the list, or the terminator follows (42_commands.md R144). -/
theorem Between.nextItem (h : Between .kkeys s) (j : Nat) : Inv (nextItem j s) := by
  unfold Machine.nextItem
  split
  next hj =>
    have hk : (BitVec.ofNat 8 j).toNat < s.keylen.toNat := by
      rwa [BitVec.toNat_ofNat, Nat.mod_eq_of_lt (by omega)]
    have hb : Between .kkeys (Machine.enter .sendItem { s with kidx := BitVec.ofNat 8 j }) :=
      { h with visits := rfl, item := fun _ => hk }
    exact hb.startSend rfl _
  next => exact (h.enter rfl (by simp)).startSend rfl _

theorem receiveReport_detail (r : RecvResult) : (receiveReport r).err ≠ .protocolAbort →
    (receiveReport r).ackfv = false ∧ (receiveReport r).astep = 0 := by
  cases r <;> exact fun _ => ⟨rfl, rfl⟩

/-- An awaited ACK either continues the command or aborts it. -/
theorem Between.ackCheck (h : Between op s) {cont : State → State} (hc : Inv (cont s)) (k : Byte)
    (r : RecvResult) : Inv (ackCheck k r cont s) := by
  cases r with
  | ok b =>
    simp only [Machine.ackCheck]
    split
    · exact hc
    · exact h.post (by simp)
  | err => exact h.post (by simp)

/-- Leaving `C_SEND_CMD` (42_commands.md R146). -/
theorem Between.afterFirstSend (h : Between op s) (hc : s.cstate = .sendCmd) :
    Inv (afterFirstSend op s) := by
  have hv := h.visits
  rw [hc] at hv
  cases op with
  | init | recv | send => exact absurd hv (by decide)
  | kenable | kdisable | kdefault => exact h.post fun _ => ⟨rfl, rfl⟩
  | kreset | kresend | kecho => exact (h.enter rfl (by simp)).startRecv rfl
  | kleds | krate => exact (h.enter rfl (by simp)).startSend rfl _
  | kscanset | kkeys | kallkeys => exact (h.enter rfl (by simp)).startRecv rfl

/-- Leaving `C_SEND_PARAM` (42_commands.md R146). -/
theorem Between.afterParam (h : Between op s) (hc : s.cstate = .sendParam) : Inv (afterParam op s) := by
  have hv := h.visits
  rw [hc] at hv
  cases op with
  | kleds | kscanset | krate => exact h.post fun _ => ⟨rfl, rfl⟩
  | _ => exact absurd hv (by decide)

/-- Leaving `C_AWAIT_FIRST_ACK` with an ACK (42_commands.md R146). -/
theorem Between.afterFirstAck (h : Between op s) (hc : s.cstate = .awaitFirstAck) :
    Inv (afterFirstAck op s) := by
  have hv := h.visits
  rw [hc] at hv
  cases op with
  | kscanset | kallkeys => exact (h.enter rfl (by simp)).startSend rfl _
  | kkeys => exact h.nextItem 0
  | _ => exact absurd hv (by decide)

/-- What follows the return of a send. -/
theorem Between.afterSend (h : Between op s) (hd : opReceivesIn op s.cstate = false) :
    Inv (afterSend s) := by
  unfold Machine.afterSend
  split
  next hc => exact h.post fun _ => ⟨rfl, rfl⟩
  next hc =>
    rw [withOp_of_opcode h.opcode]
    exact h.afterFirstSend hc
  next hc =>
    rw [withOp_of_opcode h.opcode]
    exact h.afterParam hc
  next hc =>
    obtain rfl := eq_kkeys_of_visits_item h.visits (.inl hc)
    exact (h.enter rfl fun _ => h.item (.inl hc)).startRecv rfl
  next hc => exact h.post fun _ => ⟨rfl, rfl⟩
  next hc => exact absurd hc (cstate_ne_idle_of_visits h.visits)
  all_goals next hc => simp [hc, opReceivesIn] at hd

/-- What follows the return of a receive. -/
theorem Between.afterRecv (h : Between op s) (hd : opReceivesIn op s.cstate = true) (r : RecvResult) :
    Inv (afterRecv r s) := by
  unfold Machine.afterRecv
  split
  next hc => exact h.post (receiveReport_detail r)
  next hc => exact h.post (receiveReport_detail r)
  next hc =>
    refine h.ackCheck ?_ 0 r
    rw [withOp_of_opcode h.opcode]
    exact h.afterFirstAck hc
  next hc =>
    obtain rfl := eq_kkeys_of_visits_item h.visits (.inr hc)
    exact h.ackCheck (h.nextItem _) _ r
  all_goals next hc => simp [hc, opReceivesIn] at hd

end

/-! ## Micro-steps -/

/-- A phase inside a link call runs in one direction. -/
theorem ne_idle_of_direction {l : LinkPhase} (h : l.receiving = true ∨ l.sending = true) : l ≠ .idle := by
  rintro rfl
  simp [LinkPhase.receiving, LinkPhase.sending] at h

section
variable {s : State} {l : LinkPhase}

theorem Inv.clk_at (h : Inv s) (hl : s.lph = l) : s.clkPd = l.pullsClock := hl ▸ h.clk

theorem Inv.data_at (h : Inv s) (hl : s.lph = l) : s.dataPd = !hostBit { s with lph := l } := by
  subst hl
  exact h.data

/-- A micro-step inside a link call: it keeps the direction, and what it writes is as its new position
wants it. -/
theorem Inv.inside (h : Inv s) (hb : s.status.busy = true) (hl : s.lph = l) {clkPd dataPd : Bool}
    {lph : LinkPhase} {biti : BitVec 4} {shift : FrameWord} {hold : Nat}
    (hr : lph.receiving = l.receiving) (ht : lph.sending = l.sending)
    (clk : clkPd = lph.pullsClock)
    (data : dataPd = !hostBit { s with clkPd, dataPd, lph, biti, shift, hold })
    (rxBit : lph.receiving = true → biti.toNat ≤ 10)
    (txBit : lph = .txLow ∨ lph = .txHigh → 1 ≤ biti.toNat ∧ biti.toNat ≤ 11) :
    Inv { s with clkPd, dataPd, lph, biti, shift, hold } := by
  subst hl
  obtain ⟨op, f⟩ := h.flight hb
  have hn : lph ≠ .idle := by
    apply ne_idle_of_direction
    rw [hr, ht]
    cases hd : opReceivesIn op s.cstate with
    | true => exact .inl (f.receives hd)
    | false => exact .inr (f.sends hd)
  exact
    { h with
      linkIdle := by simp [hn, hb]
      clk, data, rxBit, txBit
      flight := fun _ => ⟨op, { f with
        receives := fun hd => hr.trans (f.receives hd)
        sends := fun hd => ht.trans (f.sends hd) }⟩ }

/-- A receive runs only in a sequencer state that receives. -/
theorem InFlight.direction_of_receiving {op : CmdOp} (f : InFlight op s) (h : s.lph.sending = false) :
    opReceivesIn op s.cstate = true := by
  cases hd : opReceivesIn op s.cstate with
  | true => rfl
  | false => exact absurd (f.sends hd) (by simp [h])

/-- A send runs only in a sequencer state that sends. -/
theorem InFlight.direction_of_sending {op : CmdOp} (f : InFlight op s) (h : s.lph.receiving = false) :
    opReceivesIn op s.cstate = false := by
  cases hd : opReceivesIn op s.cstate with
  | false => rfl
  | true => exact absurd (f.receives hd) (by simp [h])

/-- A link call has returned with both lines released. -/
theorem Inv.between (h : Inv s) (hb : s.status.busy = true) {op : CmdOp} (f : InFlight op s)
    (clk : s.clkPd = false) (data : s.dataPd = false) : Between op (idleLink s) :=
  have ⟨hs, h0, h1⟩ := h.unreported hb
  ⟨h.cfg, h.keybuf, clk, data, hs, h0, h1, f.opcode, f.visits, f.item, f.list, f.set⟩

/-- `BITI` counts without wrapping below 15. -/
theorem toNat_succ_of_lt {b : BitVec 4} {n : Nat} (h : b.toNat < n) (hn : n ≤ 15) :
    (b + 1).toNat = b.toNat + 1 :=
  BitVec.toNat_add_of_lt (show b.toNat + 1 < 16 by omega)

theorem Inv.rxLowStep (h : Inv s) (hb : s.status.busy = true) (hl : s.lph = .rxLow) (p : Pins) :
    Inv (rxLowStep p s) := by
  unfold Machine.rxLowStep
  split
  · exact h.inside hb hl rfl rfl (h.clk_at hl :) (h.data_at hl :)
      (fun _ => h.rxBit (by rw [hl]; rfl)) (by simp)
  · exact h

theorem Inv.rxHighStep (h : Inv s) (hb : s.status.busy = true) (hl : s.lph = .rxHigh) (p : Pins) :
    Inv (rxHighStep afterRecv p s) := by
  unfold Machine.rxHighStep
  split
  · split
    next hk =>
      have hs := toNat_succ_of_lt hk (by decide)
      exact h.inside hb hl rfl rfl (h.clk_at hl :) (h.data_at hl :) (fun _ => by omega) (by simp)
    next =>
      split
      · obtain ⟨op, f⟩ := h.flight hb
        exact (h.between hb f (h.clk_at hl :) (h.data_at hl :)).afterRecv
          (f.direction_of_receiving (by rw [hl]; rfl)) _
      · exact h
  · exact h

theorem Inv.txHoldStep (h : Inv s) (hb : s.status.busy = true) (hl : s.lph = .txHold) :
    Inv (txHoldStep s) := by
  unfold Machine.txHoldStep
  split
  · exact h.inside hb rfl rfl rfl h.clk h.data h.rxBit h.txBit
  · exact h.inside hb hl rfl rfl (h.clk_at hl :) (h.data_at hl :) nofun (by simp)

theorem Inv.txRtsDataStep (h : Inv s) (hb : s.status.busy = true) (hl : s.lph = .txRtsData) :
    Inv (txRtsDataStep s) :=
  h.inside hb hl rfl rfl (h.clk_at hl :) rfl nofun (by simp)

/-- The start bit stays on the line when the clock is released. -/
theorem Inv.txRtsRelStep (h : Inv s) (hb : s.status.busy = true) (hl : s.lph = .txRtsRel) :
    Inv (txRtsRelStep s) :=
  h.inside hb hl rfl rfl rfl (h.data_at hl :) nofun (fun _ => by decide)

/-- Bit `k` goes on the line at the clock-low of period `k`, and the stop bit stays there in period 11. -/
theorem Inv.txLowStep (h : Inv s) (hb : s.status.busy = true) (hl : s.lph = .txLow) (p : Pins) :
    Inv (txLowStep p s) := by
  have hk := h.txBit (.inl hl)
  have drive {dataPd : Bool} (hw : dataPd = !txWire s.txbyte (min s.biti.toNat 10)) :
      Inv { s with dataPd, lph := .txHigh } :=
    h.inside hb hl rfl rfl (h.clk_at hl :) hw nofun (fun _ => hk)
  unfold Machine.txLowStep
  split
  · by_cases h10 : s.biti.toNat ≤ 10
    · rw [txBit_eq_txWire _ hk.1 h10]
      exact drive (by rw [Nat.min_eq_left h10])
    · have h11 : s.biti.toNat = 11 := by omega
      simp only [h11, txBit_ack, if_true]
      exact drive (by simpa [h11, hostBit] using h.data_at hl)
  · exact h

theorem Inv.txHighStep (h : Inv s) (hb : s.status.busy = true) (hl : s.lph = .txHigh) (p : Pins) :
    Inv (txHighStep afterSend p s) := by
  have hd : s.dataPd = !txWire s.txbyte (min s.biti.toNat 10) := h.data_at hl
  unfold Machine.txHighStep
  split
  · split
    next hk =>
      have hs := toNat_succ_of_lt hk (by decide)
      have h10 : min s.biti.toNat 10 = s.biti.toNat := by omega
      refine h.inside hb hl rfl rfl (h.clk_at hl :) ?_ nofun (fun _ => by omega)
      simpa only [hostBit, hs, Nat.add_sub_cancel, h10] using hd
    next =>
      split
      next hk =>
        obtain ⟨op, f⟩ := h.flight hb
        exact (h.between hb f (h.clk_at hl :) (by simpa [hk] using hd)).afterSend
          (f.direction_of_sending (by rw [hl]; rfl))
      next => exact h
  · exact h

/-- Every micro-step of an operation in flight keeps the invariant. -/
theorem Inv.microStep (h : Inv s) (hb : s.status.busy = true) (p : Pins) : Inv (microStep p s) := by
  unfold Machine.microStep
  split
  next => exact h
  next hl => exact h.rxLowStep hb hl p
  next hl => exact h.rxHighStep hb hl p
  next hl => exact h.txHoldStep hb hl
  next hl => exact h.txRtsDataStep hb hl
  next hl => exact h.txRtsRelStep hb hl
  next hl => exact h.txLowStep hb hl p
  next hl => exact h.txHighStep hb hl p

end

/-! ## The step -/

/-- The invariant says nothing of ports, inputs and counter. -/
theorem Inv.withPorts {s : State} (h : Inv s) (r : Option Word) (ins : List Input) (n : Nat) :
    Inv (s.withPorts r ins n) :=
  { h with
    flight := fun hb => by
      obtain ⟨op, f⟩ := h.flight hb
      exact ⟨op, { f with }⟩ }

/-- What a step does, in its three cases: a reset tick; an access of an idle engine's host; the micro-step
of a busy engine, beside the read half of the access. -/
inductive StepCases (s : State) : State → Prop where
  | reset (hr : s.input.rst = true) : StepCases s (State.resetWith s.cfg s.inputs.tail (s.ticks + 1))
  | idle (hb : s.status.busy = false) : StepCases s (accessEffect s.input.access s.advance)
  | busy (hb : s.status.busy = true) : StepCases s
      ((microStep (pinLevels s s.input.lines) s).withPorts (portAfter s.input.access s) s.inputs.tail
        (s.ticks + 1))

theorem step_cases {s t : State} (h : step s = .next t) : StepCases s t := by
  cases hr : s.input.rst with
  | true =>
    rw [step_eq, hr] at h
    cases h
    exact .reset hr
  | false =>
    cases hb : s.status.busy with
    | true =>
      rw [step_busy hb hr] at h
      cases h
      exact .busy hb
    | false =>
      rw [step_idle hb hr] at h
      cases h
      exact .idle hb

/-- Settles O11: a reset tick leaves the engine at rest, an idle engine's access starts a link call or
leaves it at rest, and a busy engine's micro-step stays inside its link call or returns to the
sequencer. -/
theorem everyStepKeepsTheInvariant : Obligations.EveryStepKeepsTheInvariant := by
  intro s t h hstep
  cases step_cases hstep with
  | reset => exact (resetWith_atRest h.cfg _ _).inv
  | idle hb => exact AtRest.accessEffect ((h.atRest hb).withPorts none s.inputs.tail (s.ticks + 1)) _
  | busy hb => exact (h.microStep hb _).withPorts _ _ _

/-! ## Configuration and flags -/

@[simp] theorem storeReg_cfg (s : State) (r : HostReg) (v : Word) : (storeReg s r v).cfg = s.cfg := by
  cases r <;> rfl

theorem storeReg_vflags (s : State) (r : HostReg) (v : Word) :
    (storeReg s r v).vflags = if r = .vflags then v.setWidth 3 else s.vflags := by
  cases r <;> rfl

theorem IdleAccess.cfg {a : AccessWord} {s t : State} (h : IdleAccess a s t) : t.cfg = s.cfg := by
  cases h with
  | read => simp
  | store => simp
  | operation _ _ op => exact (opStart_sameOperands op _).cfg
  | illegal => rfl

/-- Only register number 2 names the flags (20_memory.md R45). -/
theorem ofIdx_eq_vflags_iff (depth : Nat) (idx : BitVec 8) :
    HostReg.ofIdx depth idx = .vflags ↔ idx = 2 := by
  constructor
  · intro h
    unfold HostReg.ofIdx at h
    split_ifs at h with _ _ h2
    exact h2
  · rintro rfl
    simp [HostReg.ofIdx]

/-- An access of an idle engine's host leaves the flags, or is a write of register 2. -/
theorem IdleAccess.vflags {a : AccessWord} {s t : State} (h : IdleAccess a s t) :
    t.vflags = s.vflags
    ∨ (Access.we a = true ∧ Access.idx a = 2 ∧ t.vflags = (Access.wdata a).setWidth 3) := by
  cases h with
  | read => simp
  | store hw =>
    rw [storeReg_vflags, readPort_vflags]
    split
    next h2 => exact .inr ⟨hw, (ofIdx_eq_vflags_iff _ _).mp h2, rfl⟩
    next => exact .inl rfl
  | operation _ _ op => exact .inl (opStart_sameOperands op _).vflags
  | illegal => exact .inl rfl

/-- Settles O12: neither a reset tick, nor an access, nor a micro-step writes the parameters. -/
theorem noStepChangesTheConfiguration : Obligations.NoStepChangesTheConfiguration := by
  intro s t hstep
  cases step_cases hstep with
  | reset => rfl
  | idle hb => exact (accessEffect_idle (s := s.advance) hb _).cfg
  | busy => exact (microStep_sameOperands _ s).cfg

/-- Settles O13: a micro-step keeps the flags, and of the accesses of an idle engine's host only a write of
register 2 changes them. -/
theorem validationFlagsChangeOnlyByHostWriteOrReset :
    Obligations.ValidationFlagsChangeOnlyByHostWriteOrReset := by
  intro s t hstep hne
  cases step_cases hstep with
  | reset hr => exact .inl ⟨hr, rfl⟩
  | idle hb =>
    rcases (accessEffect_idle (s := s.advance) hb s.input.access).vflags with hv | ⟨hw, hi, hv⟩
    · exact absurd hv hne
    · exact .inr ⟨hb, hw, hi, hv⟩
  | busy => exact absurd (microStep_sameOperands _ s).vflags hne

/-! ## After reset -/

@[simp] theorem toWord_clear : Status.clear.toWord = 0 := by decide

/-- Below the key buffer, every register but `VFLAGS` reads 0 after reset. -/
theorem hostRead_resetWith (cfg : Config.Params) (ins : List Input) (n : Nat) {idx : BitVec 8}
    (h2 : idx ≠ 2) (hi : idx.toNat < 64) : hostRead (State.resetWith cfg ins n) idx = 0 := by
  have hk : ¬ (64 ≤ idx.toNat ∧ idx.toNat < 64 + cfg.keybufDepth) := by omega
  unfold hostRead HostReg.ofIdx
  simp only [resetWith_cfg, h2, hk, if_false]
  split_ifs <;> simp [regValue]

/-- Settles O9: `VFLAGS` reads its reset value, every other register below the key buffer 0. -/
theorem hostReadsAfterReset : Obligations.HostReadsAfterReset := by
  have zero (idx : BitVec 8) (h2 : idx ≠ 2) (hi : idx.toNat < 64) : hostRead State.reset idx = 0 :=
    hostRead_resetWith _ _ _ h2 hi
  have flags : hostRead State.reset 2 = 7 := hostRead_vflags State.reset
  exact ⟨zero 0 (by decide) (by decide), zero 1 (by decide) (by decide), flags,
    zero 3 (by decide) (by decide), zero 4 (by decide) (by decide), zero 5 (by decide) (by decide),
    zero 6 (by decide) (by decide), zero 7 (by decide) (by decide), zero 8 (by decide) (by decide),
    rfl, rfl⟩

theorem paramsDefault_wf : Config.Params.default.wf = true := by decide

/-- Settles O10: the reset state of a conforming configuration is at rest. -/
theorem invariantHoldsAtReset : Obligations.InvariantHoldsAtReset :=
  (resetWith_atRest paramsDefault_wf [] 0).inv

/-! ## The status word -/

/-- Where each field stands in the concatenation of 10_state.md R26. The sum of the widths stays
unevaluated, so that the lemmas on `++` see it. -/
theorem packed_fields (a : Byte) (v : Bool) (e : BitVec 3) (d b : Bool)
    {w : BitVec (16 + 8 + 2 + 1 + 3 + 1 + 1)}
    (h : w = (0 : BitVec 16) ++ a ++ (0 : BitVec 2) ++ BitVec.ofBool v ++ e ++ BitVec.ofBool d
      ++ BitVec.ofBool b) :
    w.getLsbD 0 = b ∧ w.getLsbD 1 = d ∧ w.extractLsb' 2 3 = e ∧ w.getLsbD 5 = v
      ∧ w.extractLsb' 6 2 = 0#2 ∧ w.extractLsb' 8 8 = a ∧ w.extractLsb' 16 16 = 0#16 := by
  subst h
  refine ⟨?_, ?_, ?_, ?_, ?_, ?_, ?_⟩
  · simp [-Nat.reduceAdd, BitVec.getElem_append]
  · simp [-Nat.reduceAdd, BitVec.getElem_append]
  · simp [-Nat.reduceAdd, BitVec.extractLsb'_append_eq_of_le, BitVec.extractLsb'_append_eq_of_add_le]
  · simp [-Nat.reduceAdd, BitVec.getElem_append]
  · simp [-Nat.reduceAdd, BitVec.extractLsb'_append_eq_of_le, BitVec.extractLsb'_append_eq_of_add_le]
  · simp [-Nat.reduceAdd, BitVec.extractLsb'_append_eq_of_le, BitVec.extractLsb'_append_eq_of_add_le]
  · simp [-Nat.reduceAdd, BitVec.extractLsb'_append_eq_of_le]

/-- Settles O19: the word is the concatenation of its fields, and the codes are those of 60_exceptions.md
R160. -/
theorem statusWordLayout : Obligations.StatusWordLayout := by
  intro st
  obtain ⟨busy, done, err, ackfv, low, astep, high⟩ :=
    packed_fields st.astep st.ackfv st.err.code st.done st.busy (w := st.toWord) rfl
  refine ⟨busy, done, err, ackfv, low, astep, high, err.trans ?_⟩
  cases st.err <;> rfl

/-! ## The wired lines -/

theorem wired_level_high_iff (pd : Bool) (dev : Level) :
    Level.ofBit (!pd && dev.bit) = .high ↔ pd = false ∧ dev = .high := by
  revert pd
  cases dev <;> decide

/-- With the device's data driver released, the data line carries the host's bit. -/
theorem Inv.wired_data {s : State} (h : Inv s) (devClk : Level) :
    (pinLevels s (.wired devClk .high)).data = Level.ofBit (hostBit s) := by
  simp [pinLevels, h.data, Level.bit]

theorem hostBit_of_period {s : State} {k : Nat} (h10 : k ≤ 10)
    (h : s.lph = .txHigh ∧ s.biti.toNat = k ∨ s.lph = .txLow ∧ s.biti.toNat = k + 1) :
    hostBit s = txWire s.txbyte k := by
  rcases h with ⟨hl, hk⟩ | ⟨hl, hk⟩
  · simp [hostBit, hl, hk, Nat.min_eq_left h10]
  · simp [hostBit, hl, hk]

/-- Settles O44: the wiring of each line by itself, and the bit that the invariant puts on the data line,
phase by phase. -/
theorem wiredDataLineCarriesTheSentBit : Obligations.WiredDataLineCarriesTheSentBit := by
  intro s devClk devData
  refine ⟨wired_level_high_iff _ _, wired_level_high_iff _ _, fun h => ?_⟩
  rw [h.wired_data]
  refine ⟨fun hl => ?_, fun hl hk => ?_, fun k _ h10 hk => ?_, fun hl hk => ?_, fun hl => ?_⟩
  · simp [hostBit, hl, Level.ofBit]
  · simp [hostBit, hl, hk, Level.ofBit]
  · rw [hostBit_of_period h10 hk]
  · simp [hostBit, hl, hk, Level.ofBit]
  · rcases hl with hl | hl | hl | hl | hl <;> simp [hostBit, hl, Level.ofBit]

end Sys2Proof.Machine
end

section
/-! The host port (20_memory.md): what a store does to each register the host reads, what a read returns,
the effect of an access of an idle engine's host, and what a busy engine keeps. Each statement on a step is
`step_busy` or `step_idle`, and then a lemma on registers or on micro-steps. -/

namespace Sys2Proof.Machine

/-! ## Register numbers -/

/-- The number of a register in the map of 20_memory.md R45; reserved numbers name no register, and theirs
is not used. -/
def HostReg.number : HostReg → Nat
  | .cmd => 0
  | .status => 1
  | .vflags => 2
  | .arg0 => 3
  | .arg1 => 4
  | .res0 => 5
  | .res1 => 6
  | .keylen => 7
  | .keybuf j => 64 + j
  | .reserved => 0

theorem number_ofIdx {depth : Nat} {idx : BitVec 8} (h : HostReg.ofIdx depth idx ≠ .reserved) :
    (HostReg.ofIdx depth idx).number = idx.toNat := by
  unfold HostReg.ofIdx at h ⊢
  split_ifs at h ⊢ with h0 h1 h2 h3 h4 h5 h6 h7 hk
  iterate 8
    · subst idx; rfl
  · simp only [HostReg.number]
    omega
  · exact absurd rfl h

/-- Two numbers of one register are equal (20_memory.md R45). -/
theorem ofIdx_ne_of_ne {depth : Nat} {k idx : BitVec 8} (hne : k ≠ idx)
    (hr : HostReg.ofIdx depth k ≠ .reserved) : HostReg.ofIdx depth k ≠ HostReg.ofIdx depth idx := by
  intro h
  apply hne
  apply BitVec.eq_of_toNat_eq
  rw [← number_ofIdx hr, ← number_ofIdx (h ▸ hr), h]

theorem ofIdx_eq_keybuf {depth : Nat} {idx : BitVec 8} {j : Nat}
    (h : HostReg.ofIdx depth idx = .keybuf j) : idx.toNat = 64 + j ∧ j < depth := by
  unfold HostReg.ofIdx at h
  split_ifs at h with _ _ _ _ _ _ _ _ hk
  cases h
  omega

/-! ## Stores -/

/-- What a register reads after a write of `v`, having read `old`: the listed bits of `v`, or `old` if it
stores none (20_memory.md R45). -/
def HostReg.stored (r : HostReg) (v old : Word) : Word :=
  match r with
  | .vflags => v &&& 7
  | .arg0 | .arg1 => v &&& 0xFFFF
  | .keylen | .keybuf _ => v &&& 0xFF
  | .cmd | .status | .res0 | .res1 | .reserved => old

/-- The listed bits, by register number. -/
theorem stored_ofIdx (depth : Nat) (idx : BitVec 8) (v old : Word) :
    (HostReg.ofIdx depth idx).stored v old =
      (if idx = 2 then v &&& 7
       else if idx = 3 ∨ idx = 4 then v &&& 0xFFFF
       else if idx = 7 then v &&& 0xFF
       else if 64 ≤ idx.toNat ∧ idx.toNat < 64 + depth then v &&& 0xFF
       else old) := by
  unfold HostReg.ofIdx
  split_ifs <;> simp_all [HostReg.stored]

/-- Keeping the low `n` bits is a mask. -/
theorem setWidth_setWidth_eq_and (v : Word) (n : Nat) :
    (v.setWidth n).setWidth 32 = v &&& BitVec.ofNat 32 (2 ^ n - 1) := by
  apply BitVec.eq_of_getLsbD_eq
  intro k hk
  rw [BitVec.getLsbD_and, BitVec.getLsbD_ofNat, Nat.testBit_two_pow_sub_one]
  simp [hk, Bool.and_comm]

theorem storeReg_arg0 (s : State) (r : HostReg) (v : Word) :
    (storeReg s r v).arg0 = if r = .arg0 then v.setWidth 16 else s.arg0 := by
  cases r <;> rfl

theorem storeReg_arg1 (s : State) (r : HostReg) (v : Word) :
    (storeReg s r v).arg1 = if r = .arg1 then v.setWidth 16 else s.arg1 := by
  cases r <;> rfl

theorem storeReg_keylen (s : State) (r : HostReg) (v : Word) :
    (storeReg s r v).keylen = if r = .keylen then v.setWidth 8 else s.keylen := by
  cases r <;> rfl

theorem read_storeReg_keybuf_other {r : HostReg} {j : Nat} (h : r ≠ .keybuf j) (s : State) (v : Word) :
    Memory.read (storeReg s r v).keybuf j = Memory.read s.keybuf j := by
  cases r with
  | keybuf i => exact Memory.read_write_other (by rintro rfl; exact h rfl) _
  | _ => rfl

/-- A store leaves every other register. -/
theorem regValue_storeReg_other {r r' : HostReg} (h : r' ≠ r) (s : State) (v : Word) :
    regValue (storeReg s r v) r' = regValue s r' := by
  cases r' with
  | keybuf j => simp only [regValue, read_storeReg_keybuf_other h.symm]
  | vflags | arg0 | arg1 | keylen =>
    simp only [regValue, storeReg_vflags, storeReg_arg0, storeReg_arg1, storeReg_keylen, if_neg h.symm]
  | _ => cases r <;> rfl

/-- A store leaves the listed bits in its register. -/
theorem regValue_storeReg_same {s : State} {r : HostReg}
    (hr : ∀ j, r = .keybuf j → j < s.keybuf.length) (v : Word) :
    regValue (storeReg s r v) r = r.stored v (regValue s r) := by
  cases r with
  | vflags | arg0 | arg1 | keylen => exact setWidth_setWidth_eq_and v _
  | keybuf j =>
    simp only [regValue, storeReg, Memory.read_write_same (hr j rfl)]
    exact setWidth_setWidth_eq_and v _
  | _ => rfl

/-- A host write leaves every register number but its own, busy or not. -/
theorem hostRead_hostWrite_other {k idx : BitVec 8} (h : k ≠ idx) (s : State) (v : Word) :
    hostRead (hostWrite s idx v) k = hostRead s k := by
  unfold hostWrite
  split
  · rfl
  · simp only [hostRead, storeReg_cfg]
    by_cases hr : HostReg.ofIdx s.cfg.keybufDepth k = .reserved
    · simp [hr, regValue]
    · exact regValue_storeReg_other (ofIdx_ne_of_ne h hr) s v

theorem hostRead_hostWrite_same {s : State} (hb : s.status.busy = false)
    (hk : Memory.wf s.cfg.keybufDepth s.keybuf) (idx : BitVec 8) (v : Word) :
    hostRead (hostWrite s idx v) idx
      = (HostReg.ofIdx s.cfg.keybufDepth idx).stored v (hostRead s idx) := by
  rw [hostWrite_idle hb]
  simp only [hostRead, storeReg_cfg]
  exact regValue_storeReg_same (fun j hj => hk ▸ (ofIdx_eq_keybuf hj).2) v

theorem length_hostWrite_keybuf (s : State) (idx : BitVec 8) (v : Word) :
    (hostWrite s idx v).keybuf.length = s.keybuf.length := by
  unfold hostWrite
  split
  · rfl
  · exact storeReg_wf rfl _ _

/-- An entry that is not the one written, or has no register number, is kept. -/
theorem read_hostWrite_keybuf {s : State} {idx : BitVec 8} {j : Nat}
    (h : idx.toNat ≠ 64 + j ∨ s.cfg.keybufDepth ≤ j) (v : Word) :
    Memory.read (hostWrite s idx v).keybuf j = Memory.read s.keybuf j := by
  unfold hostWrite
  split
  · rfl
  · apply read_storeReg_keybuf_other
    intro he
    have := ofIdx_eq_keybuf he
    omega

/-! ## Ports -/

theorem regValue_withPorts (r : Option Word) (ins : List Input) (n : Nat) (s : State) (q : HostReg) :
    regValue (s.withPorts r ins n) q = regValue s q := by
  cases q <;> rfl

@[simp] theorem hostRead_withPorts (r : Option Word) (ins : List Input) (n : Nat) (s : State)
    (idx : BitVec 8) : hostRead (s.withPorts r ins n) idx = hostRead s idx :=
  regValue_withPorts r ins n s _

theorem storeReg_withPorts (r : Option Word) (ins : List Input) (n : Nat) (s : State) (q : HostReg)
    (v : Word) : storeReg (s.withPorts r ins n) q v = (storeReg s q v).withPorts r ins n := by
  cases q <;> rfl

/-! ## A tick of an idle engine -/

/-- A write of a register other than `CMD` by an idle engine's host is the store and its read half. -/
theorem step_of_write {s : State} {re : Bool} {idx : BitVec 8} {v : Word} (hb : s.status.busy = false)
    (hr : s.input.rst = false) (ha : s.input.access = Access.make true re idx v) (hi : idx ≠ 0) :
    step s = .next ((hostWrite s idx v).withPorts (if re then some (hostRead s idx) else none)
      s.inputs.tail (s.ticks + 1)) := by
  rw [step_idle hb hr, ha]
  have hc := accessEffect_idle (s := s.advance) hb (Access.make true re idx v)
  generalize accessEffect (Access.make true re idx v) s.advance = t at hc
  cases hc with
  | read hw => simp at hw
  | store =>
    rw [readPort_advance, storeReg_withPorts, portAfter, Access.re_make, Access.idx_make,
      Access.wdata_make, hostWrite_idle hb]
    rfl
  | operation _ hi' => exact absurd (by simpa using hi') hi
  | illegal _ hi' => exact absurd (by simpa using hi') hi

/-- A read by an idle engine's host sets the port, and nothing else. -/
theorem step_of_read {s : State} {idx : BitVec 8} {v : Word} (hb : s.status.busy = false)
    (hr : s.input.rst = false) (ha : s.input.access = Access.make false true idx v) :
    step s = .next { s.advance with rdata := some (hostRead s idx) } := by
  rw [step_idle hb hr, ha]
  have hc := accessEffect_idle (s := s.advance) hb (Access.make false true idx v)
  generalize accessEffect (Access.make false true idx v) s.advance = t at hc
  cases hc with
  | read =>
    rw [readPort_advance, portAfter, Access.re_make, Access.idx_make]
    rfl
  | store hw | operation hw | illegal hw => simp at hw

/-- What each register number reads (20_memory.md R45). -/
theorem hostRead_eq (s : State) (idx : BitVec 8) :
    hostRead s idx =
      (if idx = 1 then s.status.toWord
       else if idx = 2 then s.vflags.setWidth 32
       else if idx = 3 then s.arg0.setWidth 32
       else if idx = 4 then s.arg1.setWidth 32
       else if idx = 5 then s.res0.setWidth 32
       else if idx = 6 then s.res1.setWidth 32
       else if idx = 7 then s.keylen.setWidth 32
       else if 64 ≤ idx.toNat ∧ idx.toNat < 64 + s.cfg.keybufDepth then
         (Memory.read s.keybuf (idx.toNat - 64)).setWidth 32
       else 0) := by
  by_cases h0 : idx = 0
  · subst h0
    exact hostRead_cmd s
  · unfold hostRead HostReg.ofIdx
    rw [if_neg h0]
    split_ifs <;> rfl

/-- Settles O17: the store by register, read back through the map of register numbers. -/
theorem hostWriteStoresTheListedBits : Obligations.HostWriteStoresTheListedBits := by
  intro s re idx v hb hr ha hi hk
  refine ⟨_, step_of_write hb hr ha hi, fun k hne => ?_, ?_, length_hostWrite_keybuf s idx v,
    fun j hj => read_hostWrite_keybuf hj v, ?_⟩
  · rw [hostRead_withPorts, hostRead_hostWrite_other hne]
  · rw [hostRead_withPorts, hostRead_hostWrite_same hb hk, stored_ofIdx]
  · rw [hostWrite_idle hb, storeReg_frame]
    rfl

/-- Settles O18: the read half alone, with the map of register numbers written out. -/
theorem hostReadReturnsTheRegisterAndChangesNothing :
    Obligations.HostReadReturnsTheRegisterAndChangesNothing := by
  intro s idx v hb hr ha
  rw [step_of_read hb hr ha, hostRead_eq]

/-! ## A tick of a busy engine -/

/-- Settles O16: the micro-step of the tick does not see the access, whose read half is all it does. -/
theorem hostWritesAreIgnoredWhileBusy : Obligations.HostWritesAreIgnoredWhileBusy := by
  intro s i rest hb hin hr
  have hi : s.input = i := by simp [State.input, hin]
  have hs := step_busy hb (hi ▸ hr)
  have hu := step_busy (s := s.withPorts s.rdata ({ i with access := 0 } :: rest) s.ticks) hb hr
  rw [microStep_withPorts, pinLevels_withPorts, withPorts_withPorts] at hu
  refine ⟨_, _, hs, hu, ?_, ?_⟩
  · rw [hi, hin]
    rfl
  · rw [← hi]
    rfl

/-- Settles O14: a micro-step reads the operands and never writes them, and the access does nothing but
its read half. -/
theorem operandsAreStableWhileBusy : Obligations.OperandsAreStableWhileBusy := by
  intro s t hb hr hstep
  rw [step_busy hb hr] at hstep
  cases hstep
  obtain ⟨hv, h0, h1, hl, hk, -⟩ := microStep_sameOperands (pinLevels s s.input.lines) s
  exact ⟨hv, h0, h1, hl, hk⟩

/-! ## Results -/

/-- `STATUS`, `RES0` and `RES1` are kept. -/
structure SameResults (s t : State) : Prop where
  status : t.status = s.status
  res0 : t.res0 = s.res0
  res1 : t.res1 = s.res1

/-- A micro-step either completes the operation, or writes no result (20_memory.md R48). -/
theorem MicroCases.report {s t : State} (h : MicroCases s t) :
    (∃ r u, t = post r u) ∨ SameResults s t := by
  have returned {u : State} (hu : Sequel { s with lph := .idle } u) :
      (∃ r w, u = post r w) ∨ SameResults s u := by
    rcases hu.report with ⟨r, hr⟩ | ⟨hs, h0, h1⟩
    · exact .inl ⟨r, _, hr⟩
    · exact .inr ⟨hs, h0, h1⟩
  cases h with
  | inside => exact .inr ⟨rfl, rfl, rfl⟩
  | sent => exact returned (afterSend_sequel _)
  | received => exact returned (afterRecv_sequel _ _)

theorem storeReg_sameResults (s : State) (r : HostReg) (v : Word) :
    SameResults s (storeReg s r v) := by
  cases r <;> exact ⟨rfl, rfl, rfl⟩

/-- An access of an idle engine's host that does not write `CMD` writes no result. -/
theorem IdleAccess.sameResults {a : AccessWord} {s t : State} (h : IdleAccess a s t)
    (hn : ¬ (Access.we a = true ∧ Access.idx a = 0)) : SameResults s t := by
  cases h with
  | read => exact ⟨readPort_status .., readPort_res0 .., readPort_res1 ..⟩
  | store =>
    obtain ⟨hs, h0, h1⟩ := storeReg_sameResults (readPort (Access.re a) (Access.idx a) s)
      (.ofIdx s.cfg.keybufDepth (Access.idx a)) (Access.wdata a)
    exact ⟨hs.trans (readPort_status ..), h0.trans (readPort_res0 ..), h1.trans (readPort_res1 ..)⟩
  | operation hw hi | illegal hw hi => exact absurd ⟨hw, hi⟩ hn

/-- Settles O15: a busy engine's micro-step completes or writes no result, and of the accesses of an idle
engine's host only a write of `CMD` writes one. -/
theorem resultsAreWrittenOnlyAtAcceptanceAndCompletion :
    Obligations.ResultsAreWrittenOnlyAtAcceptanceAndCompletion := by
  intro s t hr hstep
  cases hb : s.status.busy with
  | true =>
    rw [step_busy hb hr] at hstep
    cases hstep
    rcases (microStep_cases (pinLevels s s.input.lines) s).report with ⟨r, u, hp⟩ | ⟨hs, h0, h1⟩
    · rw [hp]
      exact ⟨nofun, fun _ _ => ⟨rfl, rfl, rfl⟩, nofun⟩
    · have ht := (congrArg Status.busy hs).trans hb
      exact ⟨fun _ _ => ⟨hs, h0, h1⟩, fun _ hf => absurd (ht.symm.trans hf) nofun, nofun⟩
  | false =>
    rw [step_idle hb hr] at hstep
    cases hstep
    refine ⟨nofun, nofun, fun _ hn => ?_⟩
    obtain ⟨hs, h0, h1⟩ := (accessEffect_idle (s := s.advance) hb s.input.access).sameResults hn
    exact ⟨hs, h0, h1⟩

/-! ## Accesses outside the opcode table -/

theorem accessEffect_of_error {a : AccessWord} {o : OtherAccess} (h : decode a = .error o) (s : State) :
    accessEffect a s = otherAccess o s := by
  simp only [accessEffect, h]

/-- Settles O5: the access of the tick is the one the decoder names, and a micro-step follows it exactly
while busy. -/
theorem stepPerformsEveryOtherAccess : Obligations.StepPerformsEveryOtherAccess := by
  rintro s u a hr hd rfl
  rw [step_eq, hr, accessEffect_of_error hd]
  rfl

end Sys2Proof.Machine
end

section
/-! Encoding (30_encoding.md). What the decoder accepts is said on the fields of an access, once per format
of the opcode table; a row's mask and match are themselves accesses made from fields, so the table says the
same field by field. -/

namespace Sys2Proof

open Machine

/-! ## Masked accesses -/

namespace Access

theorem eq_make (a : AccessWord) : a = make (we a) (re a) (idx a) (wdata a) := by
  refine BitVec.eq_of_getLsbD_eq fun k hk => ?_
  rw [getLsbD_make]
  by_cases h32 : k < 32
  · simp [h32, wdata]
  · by_cases h40 : k < 40
    · simp [h32, h40, idx, show k - 32 < 8 by omega, show 32 + (k - 32) = k by omega]
    · obtain rfl | rfl : k = 40 ∨ k = 41 := by omega
      · rfl
      · rfl

theorem and_make (a : AccessWord) (w r : Bool) (i : BitVec 8) (v : Word) :
    a &&& make w r i v = make (we a && w) (re a && r) (idx a &&& i) (wdata a &&& v) := by
  conv_lhs => rw [eq_make a]
  refine BitVec.eq_of_getLsbD_eq fun k _ => ?_
  simp only [BitVec.getLsbD_and, getLsbD_make]
  split_ifs <;> simp

theorem make_eq_make_iff {w r w' r' : Bool} {i i' : BitVec 8} {v v' : Word} :
    make w r i v = make w' r' i' v' ↔ w = w' ∧ r = r' ∧ i = i' ∧ v = v' := by
  refine ⟨fun h => ⟨?_, ?_, ?_, ?_⟩, fun ⟨hw, hr, hi, hv⟩ => by rw [hw, hr, hi, hv]⟩
  · simpa using congrArg we h
  · simpa using congrArg re h
  · simpa using congrArg idx h
  · simpa using congrArg wdata h

/-- Mask and match of a table row field by field; every row's mask holds the whole register number. -/
theorem and_mask_eq_match_iff {a : AccessWord} {w r w' r' : Bool} {i' : BitVec 8} {v v' : Word} :
    a &&& make w r 0xFF v = make w' r' i' v' ↔
      (we a && w) = w' ∧ (re a && r) = r' ∧ idx a = i' ∧ wdata a &&& v = v' := by
  have hidx : idx a &&& 0xFF = idx a := BitVec.and_allOnes
  rw [and_make, make_eq_make_iff, hidx]

theorem setWidth_wdata (a : AccessWord) : (wdata a).setWidth 8 = opc a := by
  ext k hk
  simp [wdata, opc, show k < 32 by omega]

theorem wdata_and_byte_eq_iff {a : AccessWord} {c : Byte} :
    wdata a &&& 0xFF = c.setWidth 32 ↔ opc a = c := by
  have hmask : (opc a).setWidth 32 = wdata a &&& 0xFF := by
    rw [← setWidth_wdata]
    exact setWidth_setWidth_eq_and (wdata a) 8
  rw [← hmask]
  exact ⟨fun h => by simpa using congrArg (BitVec.setWidth 8) h, congrArg (BitVec.setWidth 32)⟩

end Access

/-! ## What the decoder accepts -/

theorem CmdOp.instr_ne_setflags {op : CmdOp} {re re' start stop parity : Bool} :
    op.instr re ≠ .setflags re' start stop parity := by
  cases op <;> exact nofun

theorem CmdOp.instr_ne_getflags {op : CmdOp} {re : Bool} : op.instr re ≠ .getflags := by
  cases op <;> exact nofun

theorem decode_eq_instr_iff {a : AccessWord} {op : CmdOp} {re : Bool} :
    decode a = .ok (op.instr re) ↔
      Access.we a = true ∧ Access.idx a = idxCmd ∧ Access.opc a = op.code ∧ Access.re a = re := by
  constructor
  · have hd := decode_cases a
    generalize decode a = d at hd
    intro h
    cases hd with
    | cmd hw hi op' ho =>
      obtain ⟨rfl, hr⟩ := CmdOp.instr_inj (Except.ok.inj h)
      exact ⟨hw, hi, ho, hr⟩
    | setflags => exact absurd (Except.ok.inj h).symm CmdOp.instr_ne_setflags
    | getflags => exact absurd (Except.ok.inj h).symm CmdOp.instr_ne_getflags
    | illegal | write | read | nothing => cases h
  · rintro ⟨hw, hi, ho, rfl⟩
    simp [decode, hw, hi, ho]

theorem decode_eq_setflags_iff {a : AccessWord} {re start stop parity : Bool} :
    decode a = .ok (.setflags re start stop parity) ↔
      Access.we a = true ∧ Access.idx a = idxVflags ∧ Access.re a = re
        ∧ a.getLsbD 0 = start ∧ a.getLsbD 1 = stop ∧ a.getLsbD 2 = parity := by
  constructor
  · have hd := decode_cases a
    generalize decode a = d at hd
    intro h
    cases hd with
    | cmd => exact absurd (Except.ok.inj h) CmdOp.instr_ne_setflags
    | setflags hw hi =>
      cases h
      exact ⟨hw, hi, rfl, rfl, rfl, rfl⟩
    | getflags | illegal | write | read | nothing => cases h
  · rintro ⟨hw, hi, rfl, rfl, rfl, rfl⟩
    simp [decode, hw, hi, show idxVflags ≠ idxCmd by decide]

theorem decode_eq_getflags_iff {a : AccessWord} :
    decode a = .ok .getflags ↔
      Access.we a = false ∧ Access.re a = true ∧ Access.idx a = idxVflags := by
  constructor
  · have hd := decode_cases a
    generalize decode a = d at hd
    intro h
    cases hd with
    | cmd => exact absurd (Except.ok.inj h) CmdOp.instr_ne_getflags
    | getflags hw hr hi => exact ⟨hw, hr, hi⟩
    | setflags | illegal | write | read | nothing => cases h
  · rintro ⟨hw, hr, hi⟩
    simp [decode, hw, hr, hi]

/-! ## The statements -/

/-- Settles O1: an operation is SETFLAGS, GETFLAGS or a write of `CMD`, and each of the three formats is
read back. -/
theorem decodeOfEncodeIsTheInstruction : Obligations.DecodeOfEncodeIsTheInstruction := by
  rintro i -
  cases i with
  | setflags re start stop parity => exact Laws.RoundTrip.setflags re start stop parity
  | getflags => exact Laws.RoundTrip.getflags
  | _ => exact decode_encodeCmd _ _

theorem cmd_match_eq_make (op : CmdOp) :
    0x20000000000#42 ||| op.code.setWidth 42 = Access.make true false idxCmd (op.code.setWidth 32) := by
  cases op <;> rfl

/-- Settles O2: masks and matches of the three formats, compared field by field with what the decoder
accepts. -/
theorem decodeMatchesTheOpcodeTable : Obligations.DecodeMatchesTheOpcodeTable := by
  refine ⟨fun a op re => ?cmd, fun a re start stop parity => ?setflags, fun a => ?getflags⟩
  case cmd =>
    rw [decode_eq_instr_iff, show 0x2FF000000FF#42 = Access.make true false 0xFF 0xFF from rfl,
      cmd_match_eq_make, Access.and_mask_eq_match_iff, Access.wdata_and_byte_eq_iff]
    simp [Access.re, and_assoc]
  case setflags =>
    rw [decode_eq_setflags_iff, show 0x2FF00000000#42 = Access.make true false 0xFF 0 from rfl,
      show 0x20200000000#42 = Access.make true false idxVflags 0 from rfl,
      Access.and_mask_eq_match_iff]
    simp [Access.re, and_assoc]
  case getflags =>
    rw [decode_eq_getflags_iff, show 0x1FF00000000#42 = Access.make false true 0xFF 0 from rfl,
      show 0x10200000000#42 = Access.make false true idxVflags 0 from rfl,
      Access.and_mask_eq_match_iff]
    simp [Access.we, and_comm]

theorem controlByte_toNat {ri di : Nat} (hr : ri < 32) (hd : di < 4) :
    (controlByte ri di).toNat = ri + 32 * di := by
  have hor : di <<< 5 ||| ri = di <<< 5 + ri := (Nat.shiftLeft_add_eq_or_of_lt (i := 5) hr di).symm
  rw [controlByte, BitVec.or_comm]
  simp only [BitVec.toNat_or, BitVec.toNat_shiftLeft, BitVec.toNat_ofNat]
  rw [Nat.mod_eq_of_lt (show di < 2 ^ 8 by omega), Nat.mod_eq_of_lt (show ri < 2 ^ 8 by omega),
    Nat.mod_eq_of_lt (show di <<< 5 < 2 ^ 8 by omega), hor]
  omega

/-- Settles O28: the byte is `ri + 32 * di`, and its fields are that number's quotients and remainders. -/
theorem controlByteFields : Obligations.ControlByteFields := by
  intro ri di hr hd
  have h := controlByte_toNat hr hd
  refine ⟨h, ?_, ?_, ?_⟩
  · simp only [BitVec.extractLsb'_toNat, h]
    omega
  · simp only [BitVec.extractLsb'_toNat, h, Nat.shiftRight_eq_div_pow]
    omega
  · rw [← BitVec.testBit_toNat, h]
    exact Nat.testBit_lt_two_pow (by omega)

end Sys2Proof
end

section
/-! The codec (40_codec.md). A word is the frame of a byte exactly when its start, data, parity and stop
bits are those of the byte. What `rx_check` answers on a sent frame with bits outside the data flipped is one
rule: no bit flipped is the round trip, one bit flipped is a corruption. -/

namespace Sys2Proof.Machine

/-! ## Parity -/

theorem length_filter_mod_two {α : Type} (p : α → Bool) (l : List α) :
    (l.filter p).length % 2 = (l.foldr (fun a b => p a ^^ b) false).toNat := by
  induction l with
  | nil => rfl
  | cons a l ih =>
    rw [List.foldr_cons]
    generalize l.foldr (fun a b => p a ^^ b) false = b at ih ⊢
    cases hp : p a
    · simpa [hp] using ih
    · rw [List.filter_cons_of_pos hp, List.length_cons, Nat.add_mod, ih]
      cases b <;> rfl

theorem popcount_mod_two (d : Byte) :
    popcount d % 2 = (d.getLsbD 0 ^^ d.getLsbD 1 ^^ d.getLsbD 2 ^^ d.getLsbD 3 ^^ d.getLsbD 4
      ^^ d.getLsbD 5 ^^ d.getLsbD 6 ^^ d.getLsbD 7).toNat := by
  rw [popcount, length_filter_mod_two]
  simp [List.range_succ]

theorem computeParity_iff {d : Byte} : computeParity d = true ↔ popcount d % 2 = 0 :=
  decide_eq_true_iff

theorem validateParity_iff {w : FrameWord} :
    validateParity w = true ↔ computeParity (rxData w) = w.getLsbD 9 :=
  beq_iff_eq

/-- Settles O21: the number of 1 bits modulo 2 is the exclusive-or of the bits. -/
theorem computeParityIsOddParity : Obligations.ComputeParityIsOddParity := by
  intro d
  refine ⟨computeParity_iff, ?xor, ?odd⟩
  case xor =>
    rw [Bool.eq_iff_iff, computeParity_iff, popcount_mod_two, Bool.toNat_eq_zero, Bool.not_eq_true']
  case odd =>
    cases h : computeParity d
    · have := mt computeParity_iff.2 (ne_true_of_eq_false h)
      simp only [Bool.toNat_false]
      omega
    · have := computeParity_iff.1 h
      simp only [Bool.toNat_true]
      omega

/-! ## Frames -/

theorem txWire_data (d : Byte) {k : Nat} (h1 : 1 ≤ k) (h8 : k ≤ 8) :
    txWire d k = d.getLsbD (k - 1) := by
  simp [txWire, txBit_data d h1 h8]

@[simp] theorem txWire_parity (d : Byte) : txWire d 9 = computeParity d := by simp [txWire]

/-- Settles O39: the start bit is outside the codec's periods, the others are `tx_bit`. -/
theorem sentBitsAreStartDataParityStop : Obligations.SentBitsAreStartDataParityStop := fun d =>
  ⟨txWire_start d, fun _ h1 h8 => txWire_data d h1 h8, txWire_parity d, txWire_stop d⟩

@[simp] theorem getElem_rxAssemble (f : Nat → Bool) {i : Nat} (hi : i < 11) :
    (rxAssemble f)[i] = f i :=
  getLsbD_rxAssemble f hi

theorem getLsbD_rxData_rxAssemble (f : Nat → Bool) {i : Nat} (hi : i < 8) :
    (rxData (rxAssemble f)).getLsbD i = f (i + 1) := by
  rw [getLsbD_rxData _ hi, getLsbD_rxAssemble f (by omega)]

/-- Settles O22: each sample sets its own bit of the word and no other. -/
theorem assembledWordHoldsTheSamples : Obligations.AssembledWordHoldsTheSamples := fun f =>
  ⟨fun _ hi => getLsbD_rxAssemble f hi, fun _ hi => getLsbD_rxData_rxAssemble f hi⟩

@[simp] theorem rxData_rxAssemble_txWire (d : Byte) : rxData (rxAssemble (txWire d)) = d := by
  refine BitVec.eq_of_getLsbD_eq fun i hi => ?_
  rw [getLsbD_rxData_rxAssemble _ hi, txWire_data d (by omega) (by omega), Nat.add_sub_cancel]

/-- The frame of a byte, field by field. -/
theorem eq_rxAssemble_txWire_iff {w : FrameWord} {d : Byte} :
    w = rxAssemble (txWire d) ↔ w.getLsbD 0 = false ∧ rxData w = d
      ∧ w.getLsbD 9 = computeParity d ∧ w.getLsbD 10 = true := by
  constructor
  · rintro rfl
    simp
  · rintro ⟨h0, rfl, h9, h10⟩
    refine BitVec.eq_of_getLsbD_eq fun k hk => ?_
    rw [getLsbD_rxAssemble _ hk]
    obtain rfl | hd | rfl | rfl : k = 0 ∨ (1 ≤ k ∧ k ≤ 8) ∨ k = 9 ∨ k = 10 := by omega
    · rw [h0, txWire_start]
    · rw [txWire_data _ hd.1 hd.2, getLsbD_rxData _ (by omega), Nat.sub_add_cancel hd.1]
    · rw [h9, txWire_parity]
    · rw [h10, txWire_stop]

theorem rxData_or (w w' : FrameWord) : rxData (w ||| w') = rxData w ||| rxData w' :=
  BitVec.extractLsb'_or

theorem rxData_setWidth_shiftLeft_one (d : Byte) : rxData (d.setWidth 11 <<< 1) = d := by
  refine BitVec.eq_of_getLsbD_eq fun i hi => ?_
  rw [getLsbD_rxData _ hi]
  simp [show i + 1 < 11 by omega]

/-- The frame of a byte as the formula of 30_encoding.md R65. -/
theorem rxAssemble_txWire (d : Byte) :
    rxAssemble (txWire d)
      = (1#11 <<< 10) ||| ((BitVec.ofBool (computeParity d)).setWidth 11 <<< 9)
        ||| (d.setWidth 11 <<< 1) := by
  refine (eq_rxAssemble_txWire_iff.2 ⟨?start, ?data, ?parity, ?stop⟩).symm
  case start => simp
  case parity => simp
  case stop => simp
  case data =>
    have hparity (b : Bool) : rxData ((BitVec.ofBool b).setWidth 11 <<< 9) = 0#8 := by cases b <;> rfl
    have hstop : rxData (1#11 <<< 10) = 0#8 := rfl
    rw [rxData_or, rxData_or, hstop, hparity, rxData_setWidth_shiftLeft_one, BitVec.zero_or,
      BitVec.zero_or]

/-! ## Checks -/

/-- With every check on, the data bits are free and the other three follow from them. -/
theorem rxCheck_all_iff {w : FrameWord} : rxCheck 7 w = true ↔ ∃ d, w = rxAssemble (txWire d) := by
  simp only [eq_rxAssemble_txWire_iff, rxCheck_iff, validateParity_iff]
  constructor
  · rintro ⟨hstart, hstop, hparity⟩
    exact ⟨rxData w, hstart rfl, rfl, (hparity rfl).symm, hstop rfl⟩
  · rintro ⟨d, h0, rfl, h9, h10⟩
    exact ⟨fun _ => h0, fun _ => h10, fun _ => h9.symm⟩

/-- Settles O23: the checks one by one, and the words that pass all three as the frames of the bytes. -/
theorem rxCheckAcceptsExactlyByTheEnabledChecks :
    Obligations.RxCheckAcceptsExactlyByTheEnabledChecks := by
  refine ⟨fun f w => ?each, fun w => ?allOff, fun w => ?allOn⟩
  case each => rw [rxCheck_iff, validateParity_iff, rxData]
  case allOff => simp [rxCheck_iff]
  case allOn => simp only [rxCheck_all_iff, rxAssemble_txWire]

theorem rxData_xor (w m : FrameWord) : rxData (w ^^^ m) = rxData w ^^^ rxData m :=
  BitVec.extractLsb'_xor

theorem rxData_rxAssemble_txWire_xor (d : Byte) {m : FrameWord} (hm : rxData m = 0#8) :
    rxData (rxAssemble (txWire d) ^^^ m) = d := by
  rw [rxData_xor, hm, rxData_rxAssemble_txWire, BitVec.xor_zero]

/-- A sent frame with the bits of `m`, none of them a data bit, flipped on the way: each check sees the
flip of its own bit and no other. -/
theorem rxCheck_rxAssemble_txWire_xor (f : BitVec 3) (d : Byte) {m : FrameWord} (hm : rxData m = 0#8) :
    rxCheck f (rxAssemble (txWire d) ^^^ m) =
      ((!f.getLsbD 0 || !m.getLsbD 0) && (!f.getLsbD 1 || !m.getLsbD 10)
        && (!f.getLsbD 2 || !m.getLsbD 9)) := by
  have hparity : validateParity (rxAssemble (txWire d) ^^^ m) = !m.getLsbD 9 := by
    rw [validateParity, rxData_rxAssemble_txWire_xor d hm, BitVec.getLsbD_xor,
      getLsbD_rxAssemble _ (by decide), txWire_parity]
    cases computeParity d <;> cases m.getLsbD 9 <;> rfl
  simp [rxCheck, vstart, vstop, vparity, hparity]

/-- Settles O24: the frame with no bit flipped. -/
theorem sentFrameParsesBackToTheByte : Obligations.SentFrameParsesBackToTheByte := by
  intro d f
  refine ⟨?_, rxData_rxAssemble_txWire d, rxAssemble_txWire d⟩
  have h := rxCheck_rxAssemble_txWire_xor f d (m := 0) rfl
  simpa using h

/-- Settles O25: the frame with the one bit of a check flipped. -/
theorem corruptedBitIsRefusedExactlyWhenChecked :
    Obligations.CorruptedBitIsRefusedExactlyWhenChecked := by
  intro d f
  have hdata {m : FrameWord} (hm : rxData m = 0#8) := rxData_rxAssemble_txWire_xor d hm
  have hcheck {m : FrameWord} (hm : rxData m = 0#8) := rxCheck_rxAssemble_txWire_xor f d hm
  refine ⟨⟨?_, hdata rfl⟩, ⟨?_, hdata rfl⟩, ⟨?_, hdata rfl⟩⟩
  all_goals
    rw [hcheck rfl]
    simp

end Sys2Proof.Machine
end

section
/-! The operations at their acceptance (41_link.md R101, R106 to R109, R115), the place of an operation in
a tick (R100), and what is reported at the end (R102, R109). A write of `CMD` is one rule, in its busy and
its idle case; what each operation answers is that rule at its row. -/

namespace Sys2Proof.Machine

/-! ## A write of the command register -/

theorem exec_cmd_busy {s : State} (h : s.status.busy = true) (op : CmdOp) (re : Bool) :
    exec (op.instr re) s = .next { s with rdata := cmdRead re s } := by
  simp [exec_cmd, issue_eq, h]

theorem exec_cmd_idle {s : State} (h : s.status.busy = false) (op : CmdOp) (re : Bool) :
    exec (op.instr re) s = .next (opStart op (accept op.code { s with rdata := cmdRead re s })) := by
  simp [exec_cmd, issue_eq, h]

/-- A keyboard command whose arguments pass is accepted with its first byte to be sent
(42_commands.md R146). -/
theorem sendFirst_accept (re : Bool) (opc d : Byte) (s : State) :
    sendFirst d (accept opc { s with rdata := cmdRead re s }) = acceptedSend re opc .sendCmd d s := rfl

/-- The four cells of a selector table (30_encoding.md R71). -/
theorem selectorTable_get_eq (t : Config.SelectorTable) (ib it : Bool) :
    t.get ib it =
      if ib then (if it then t.ib1it1 else t.ib1it0) else (if it then t.ib0it1 else t.ib0it0) := by
  cases ib <;> cases it <;> rfl

/-- Settles O36: the busy case of the rule. -/
theorem commandWriteWhileBusyDoesNothing : Obligations.CommandWriteWhileBusyDoesNothing :=
  fun _ op re hb => exec_cmd_busy hb op re

/-- Settles O29: the report over released pulldowns, in the acceptance step. -/
theorem initReleasesThePulldownsAndCompletes : Obligations.InitReleasesThePulldownsAndCompletes :=
  fun _ re hb => exec_cmd_idle hb .init re

theorem exec_recv_idle {s : State} (h : s.status.busy = false) (re : Bool) :
    exec (.recv re) s = .next (acceptedRecv re 0x02 s) :=
  exec_cmd_idle h .recv re

theorem exec_send_idle {s : State} (h : s.status.busy = false) (re : Bool) :
    exec (.send re) s = .next (acceptedSend re 0x03 .link (s.arg0.setWidth 8) s) :=
  exec_cmd_idle h .send re

/-- Settles O32: RECV and SEND are accepted, and the entry of the link call is part of the same step. -/
theorem recvAndSendStartTheirLinkCall : Obligations.RecvAndSendStartTheirLinkCall :=
  fun _ re hb => ⟨exec_recv_idle hb re, exec_send_idle hb re⟩

/-- A command that starts with the send of `d`, whatever its operands. -/
theorem exec_sendFirst_idle {s : State} (h : s.status.busy = false) (op : CmdOp) (re : Bool) {d : Byte}
    (hd : opStart op (accept op.code { s with rdata := cmdRead re s })
      = sendFirst d (accept op.code { s with rdata := cmdRead re s })) :
    exec (op.instr re) s = .next (acceptedSend re op.code .sendCmd d s) := by
  rw [exec_cmd_idle h, hd, sendFirst_accept]

/-- Settles O33: each command's row names its first byte; that of KALLKEYS is a cell of its table. -/
theorem keyboardCommandsSendTheirFirstByte : Obligations.KeyboardCommandsSendTheirFirstByte := by
  intro s re hb
  refine ⟨exec_sendFirst_idle hb .kenable re rfl, exec_sendFirst_idle hb .kdisable re rfl,
    exec_sendFirst_idle hb .kdefault re rfl, exec_sendFirst_idle hb .kreset re rfl,
    exec_sendFirst_idle hb .kresend re rfl, exec_sendFirst_idle hb .kecho re rfl,
    exec_sendFirst_idle hb .kleds re rfl, exec_sendFirst_idle hb .krate re rfl, ?_⟩
  rw [← selectorTable_get_eq]
  exact exec_sendFirst_idle hb .kallkeys re rfl

/-! ## The flags -/

/-- A SETFLAGS is its read half and, of an idle engine, the write of the three flags. -/
theorem exec_setflags (re start stop parity : Bool) (s : State) :
    exec (.setflags re start stop parity) s = .next { s with
      vflags := if s.status.busy then s.vflags
        else BitVec.ofBool parity ++ BitVec.ofBool stop ++ BitVec.ofBool start
      rdata := if re then some (s.vflags.setWidth 32) else s.rdata } := by
  have hv : HostReg.ofIdx s.cfg.keybufDepth idxVflags = .vflags := (ofIdx_eq_vflags_iff _ _).mpr rfl
  cases hb : s.status.busy with
  | true => simp [exec, execSetflags, hostWrite_busy, hb, readPort_vflags_eq]
  | false => simp [exec, execSetflags, hostWrite_idle, hb, hv, storeReg, readPort_vflags_eq]

/-- Settles O30: the bits written are the three operands, and only an idle engine takes them. -/
theorem setflagsWritesTheThreeFlags : Obligations.SetflagsWritesTheThreeFlags := by
  intro s re start stop parity
  refine ⟨fun hb => ?_, fun hb => ?_⟩
  · obtain ⟨h0, h1, h2⟩ := flag_bits parity stop start
    exact ⟨_, exec_setflags .., by simpa [hb] using h0, by simpa [hb] using h1, by simpa [hb] using h2, rfl⟩
  · rw [exec_setflags, hb]
    rfl

/-- Settles O31: a read of the flags is the read port's lemma, which asks nothing of the state. -/
theorem getflagsReturnsTheFlags : Obligations.GetflagsReturnsTheFlags :=
  fun s => congrArg Host.Outcome.next (readPort_vflags_eq true s)

/-! ## An operation in its tick -/

theorem accessEffect_of_ok {a : AccessWord} {i : Instr} {s u : State} (h : decode a = .ok i)
    (hu : exec i s = .next u) : accessEffect a s = u := by
  simp only [accessEffect, h, execState_of_exec hu]

/-- A tick of an idle engine with an operation is the meaning of the operation. -/
theorem step_idle_of_ok {s u : State} {i : Instr} (hb : s.status.busy = false)
    (hr : s.input.rst = false) (hd : decode s.input.access = .ok i) (hu : exec i s.advance = .next u) :
    step s = .next u := by
  rw [step_idle hb hr, accessEffect_of_ok hd hu]

/-- Settles O4: the access of the tick is the operation, and a micro-step follows it exactly while
busy. -/
theorem stepRunsTheDecodedInstruction : Obligations.StepRunsTheDecodedInstruction := by
  intro s u i hr hd hu
  rw [step_eq, hr, accessEffect_of_ok hd hu]
  rfl

/-- A number that is the word of an operation has no bit beyond the 42 of an access. -/
theorem decode_of_decodeTableWord {nbits w : Nat} {i : Instr} (h : decodeTableWord nbits w = some i) :
    decode (BitVec.ofNat 42 (w % 2 ^ nbits)) = .ok i := by
  simp only [decodeTableWord] at h
  split at h
  · split at h
    next j hj => rw [hj, Option.some.inj h]
    next => cases h
  · cases h

/-- Settles O6: the word placed is the access of the next tick. -/
theorem placedWordIsRunByTheNextStep : Obligations.PlacedWordIsRunByTheNextStep :=
  fun _ _ _ _ _ hb hw hu => step_idle_of_ok hb rfl (decode_of_decodeTableWord hw) hu

/-! ## Reports -/

/-- Settles O48: the updates of `post` are those listed. -/
theorem postWritesTheReportAndIdles : Obligations.PostWritesTheReportAndIdles := fun _ _ _ _ _ _ => rfl

/-- The two sequencer states whose byte is returned unjudged (41_link.md R109, 42_commands.md R148). -/
theorem afterRecv_unjudged {s : State} (h : s.cstate = .link ∨ s.cstate = .awaitResp) (r : RecvResult) :
    afterRecv r s = post (receiveReport r) s := by
  rcases h with h | h <;> simp only [afterRecv, h]

theorem afterSend_link {s : State} (h : s.cstate = .link) : afterSend s = post {} s := by
  simp only [afterSend, h]

/-- Settles O49: the report of each result of a receive. -/
theorem receivedByteOrViolationIsPosted : Obligations.ReceivedByteOrViolationIsPosted :=
  fun _ b hc => ⟨afterRecv_unjudged hc (.ok b), afterRecv_unjudged hc .err⟩

end Sys2Proof.Machine
end

section
/-! The tables of the link layer, row by row (41_link.md R111, R118), the hold that a send loads (R105), and
what a micro-step makes of the data pin (R119, R122). The rows of polls that do not see their level are
`microStep_wait`. -/

namespace Sys2Proof.Machine

/-! ## The row of each phase -/

section
variable {s : State}

theorem microStep_rxLow (h : s.lph = .rxLow) (p : Pins) : microStep p s = rxLowStep p s := by
  simp only [microStep, h]

theorem microStep_rxHigh (h : s.lph = .rxHigh) (p : Pins) : microStep p s = rxHighStep afterRecv p s := by
  simp only [microStep, h]

theorem microStep_txHold (h : s.lph = .txHold) (p : Pins) : microStep p s = txHoldStep s := by
  simp only [microStep, h]

theorem microStep_txRtsData (h : s.lph = .txRtsData) (p : Pins) : microStep p s = txRtsDataStep s := by
  simp only [microStep, h]

theorem microStep_txRtsRel (h : s.lph = .txRtsRel) (p : Pins) : microStep p s = txRtsRelStep s := by
  simp only [microStep, h]

theorem microStep_txLow (h : s.lph = .txLow) (p : Pins) : microStep p s = txLowStep p s := by
  simp only [microStep, h]

theorem microStep_txHigh (h : s.lph = .txHigh) (p : Pins) : microStep p s = txHighStep afterSend p s := by
  simp only [microStep, h]

end

/-- Settles O37: the sampling row sets one bit of the word, the returning row hands over the check of the
word. -/
theorem receivePhaseRows : Obligations.ReceivePhaseRows := by
  intro s p
  refine ⟨fun hl hc => ⟨setFrameBit s.shift s.biti.toNat p.data.bit, ?_, fun j hj =>
      getLsbD_setFrameBit _ _ _ _ hj⟩, fun hl hc => microStep_wait (.inl ⟨.inl hl, hc⟩),
    fun hl hc hk => ?_, fun hl hc hk => ?_, fun hl hc => microStep_wait (.inr ⟨.inl hl, hc⟩)⟩
  · rw [microStep_rxLow hl, rxLowStep, if_pos hc]
  · rw [microStep_rxHigh hl, rxHighStep, if_pos hc, if_pos hk]
  · simp only [microStep_rxHigh hl, rxHighStep, hc, hk]
    rfl

/-- Settles O38: the request-to-send takes its rows in turn whatever the lines; in a period the bit driven
is the one on the wire, and period 11 drives nothing. -/
theorem sendPhaseRows : Obligations.SendPhaseRows := by
  intro s p
  refine ⟨fun hl hh => ?_, fun hl hh => ?_, fun hl => microStep_txRtsData hl p,
    fun hl => microStep_txRtsRel hl p, fun hl hc h1 h10 => ?_, fun hl hc hk => ?_,
    fun hl hc => microStep_wait (.inl ⟨.inr hl, hc⟩), fun hl hc hk => ?_, fun hl hc hk => ?_,
    fun hl hc => microStep_wait (.inr ⟨.inr hl, hc⟩)⟩
  · rw [microStep_txHold hl, txHoldStep, if_pos hh]
  · rw [microStep_txHold hl, txHoldStep, if_neg (by omega)]
  · simp only [microStep_txLow hl, txLowStep, hc, txBit_eq_txWire _ h1 h10, if_true]
  · simp [microStep_txLow hl, txLowStep, hc, hk]
  · rw [microStep_txHigh hl, txHighStep, if_pos hc, if_pos hk]
  · simp [microStep_txHigh hl, txHighStep, hc, hk]

/-! ## The hold -/

/-- `holdOk` with the value of `RTS_MIN_US` (70_reset_and_hazards.md R184). -/
theorem rtsMinUs_le_of_wf {p : Config.Params} (h : p.wf = true) : 100 ≤ p.rtsHoldUs := by
  simp only [Config.Params.wf, Bool.and_eq_true] at h
  obtain ⟨⟨⟨⟨-, hold⟩, -⟩, -⟩, -⟩ := h
  exact of_decide_eq_true hold

/-- Settles O41: the load of the counter is the configured hold, which a conforming configuration has at
100 microseconds or more. -/
theorem everySendHoldsAtLeastTheMinimum : Obligations.EverySendHoldsAtLeastTheMinimum :=
  fun _ _ h => ⟨rfl, Nat.mul_le_mul_right _ (rtsMinUs_le_of_wf h), rfl, rfl⟩

/-! ## The data pin -/

/-- Of the micro-steps only the poll of `RX_LOW` that sees the clock low reads the data pin. -/
theorem microStep_data_irrelevant {s : State} {p q : Pins} (h : s.lph ≠ .rxLow ∨ p.clk = .high)
    (hc : q.clk = p.clk) : microStep p s = microStep q s := by
  by_cases hl : s.lph = .rxLow
  · have hp := h.resolve_left (not_not_intro hl)
    rw [microStep_wait (.inl ⟨.inl hl, hp⟩), microStep_wait (.inl ⟨.inl hl, hc.trans hp⟩)]
  · unfold microStep
    cases hk : s.lph with
    | rxLow => exact absurd hk hl
    | idle | txHold | txRtsData | txRtsRel => rfl
    | rxHigh => simp only [rxHighStep, hc]
    | txLow => simp only [txLowStep, hc]
    | txHigh => simp only [txHighStep, hc]

/-- Two steps whose inputs differ only in the lines are the same if the micro-step makes the same of
both. -/
theorem step_lines_congr {s : State} {l l' : Lines} (rst : Bool) (a : AccessWord) (r : Option Word)
    (rest : List Input) (n : Nat)
    (h : microStep (pinLevels s l) s = microStep (pinLevels s l') s) :
    step (s.withPorts r (⟨rst, a, l⟩ :: rest) n) = step (s.withPorts r (⟨rst, a, l'⟩ :: rest) n) := by
  cases rst with
  | true =>
    rw [step_eq, step_eq]
    rfl
  | false =>
    cases hb : s.status.busy with
    | false =>
      have access (m : Lines) := step_idle (s := s.withPorts r (⟨false, a, m⟩ :: rest) n) hb rfl
      rw [access, access]
      rfl
    | true =>
      have micro (m : Lines) := step_busy (s := s.withPorts r (⟨false, a, m⟩ :: rest) n) hb rfl
      rw [micro, micro]
      simp only [microStep_withPorts, pinLevels_withPorts, withPorts_withPorts]
      exact congrArg (fun u : State => Host.Outcome.next (u.withPorts _ rest _)) h

/-- Settles O43: the two steps see the same clock, and a high one in `RX_LOW`. -/
theorem dataPinMattersOnlyToAReceiveSample : Obligations.DataPinMattersOnlyToAReceiveSample := by
  intro s i rest clk d d' _
  have same {l l' : Lines} :=
    step_lines_congr (s := s) (l := l) (l' := l') i.rst i.access s.rdata rest s.ticks
  refine ⟨fun h => same (microStep_data_irrelevant h rfl),
    fun h => same (microStep_data_irrelevant (h.imp_right fun ⟨hp, hc⟩ => ?_) rfl)⟩
  exact (wired_level_high_iff _ _).mpr ⟨hp, hc⟩

end Sys2Proof.Machine
end

section
/-! Runs (41_link.md R100, R113, R117; 42_commands.md R149): the request-to-send, a wait for ever, RECV and
SEND from their `CMD` write on, and an operation in flight as the sequence of its link calls. Each is a
sequence of ticks `Played` to the engine, carried over to `run` by `run_played`. -/

namespace Sys2Proof.Machine

/-! ## The request-to-send -/

/-- The first `m` steps of a run play the lines of the first `m` inputs. -/
theorem run_played_take {s t : State} {ins rest : List Input} {bs : List Byte} {m : Nat}
    (hi : s.inputs = ins ++ rest) (hr : ∀ i ∈ ins, i.rst = false) (hm : m ≤ ins.length)
    (h : Played ((ins.take m).map (·.lines)) s t bs) :
    ∃ r n, run m s = .next (t.withPorts r (ins.drop m ++ rest) n) := by
  have hi' : s.inputs = ins.take m ++ (ins.drop m ++ rest) := by
    rw [← List.append_assoc, List.take_append_drop, hi]
  obtain ⟨⟨r, hrun⟩, -⟩ := run_played hi' ⟨rfl, fun i h => hr i (List.mem_of_mem_take h)⟩ h
  rw [List.length_take_of_le hm] at hrun
  exact ⟨r, _, hrun⟩

/-- Before the tick that pulls the data line, the request-to-send touches the hold and the phase only. -/
theorem played_rtsHolding {s : State} {ls : List Lines} (hb : s.status.busy = true)
    (hl : s.lph = .txHold) (hn : ls.length ≤ s.hold + 1) :
    ∃ hold lph, Played ls s { s with hold, lph } [] := by
  induction ls generalizing s with
  | nil => exact ⟨s.hold, s.lph, .nil s⟩
  | cons l ls ih =>
    have hrel : s.lph ≠ .txRtsRel := by simp [hl]
    rw [List.length_cons] at hn
    by_cases hh : 0 < s.hold
    · obtain ⟨hold, lph, h⟩ := ih (s := { s with hold := s.hold - 1 }) hb hl (by simp only; omega)
      exact ⟨hold, lph, .tick hb hrel (by rw [microStep_txHold hl, txHoldStep, if_pos hh]) h⟩
    · obtain rfl : ls = [] := List.eq_nil_of_length_eq_zero (by omega)
      exact ⟨s.hold, .txRtsData,
        .tick hb hrel (by rw [microStep_txHold hl, txHoldStep, if_neg hh]) (.nil _)⟩

/-- Settles O40: up to the tick that pulls the data line neither pulldown changes; that tick leaves the
clock pulled, and the next releases it. -/
theorem requestToSendHoldsTheClockThenPullsData :
    Obligations.RequestToSendHoldsTheClockThenPullsData := by
  intro s ins rest hb hl hc hi hlen hr
  have holding {m : Nat} (hm : m ≤ s.hold + 1) :
      ∃ u, run m s = .next u ∧ u.clkPd = s.clkPd ∧ u.dataPd = s.dataPd := by
    obtain ⟨_, _, h⟩ := played_rtsHolding (ls := (ins.take m).map (·.lines)) hb hl (by simp; omega)
    obtain ⟨_, _, hrun⟩ := run_played_take hi hr (by omega) h
    exact ⟨_, hrun, rfl, rfl⟩
  have pulled := played_rtsHeld (ls := (ins.take (s.hold + 2)).map (·.lines)) hb hl (by simp; omega)
  obtain ⟨_, _, hpulled⟩ := run_played_take hi hr (by omega) pulled
  obtain ⟨⟨_, hreleased⟩, -⟩ := run_played hi ⟨rfl, hr⟩ (played_rts hb hl (by simp [hlen]))
  rw [hlen] at hreleased
  refine ⟨fun m hm => ?_, fun hd m hm => ?_, ⟨_, hpulled, rfl, rfl⟩,
    ⟨_, hreleased, rfl, rfl, rfl, rfl, rfl, rfl⟩⟩
  · rcases Nat.lt_or_ge m (s.hold + 2) with h | h
    · obtain ⟨u, hrun, hclk, -⟩ := holding (Nat.le_of_lt_succ h)
      exact ⟨u, hrun, hclk.trans hc⟩
    · obtain rfl : m = s.hold + 2 := Nat.le_antisymm hm h
      exact ⟨_, hpulled, hc⟩
  · obtain ⟨u, hrun, -, hdata⟩ := holding hm
    exact ⟨u, hrun, hdata.trans hd⟩

/-! ## A silent device -/

/-- Settles O42: every tick is a poll that changes nothing. -/
theorem silentDeviceHangsTheOperation : Obligations.SilentDeviceHangsTheOperation := by
  intro s ins rest ls clk hb hw hi hp hc
  obtain ⟨⟨_, hrun⟩, -⟩ := run_played hi hp (played_wait clk hb hw (forall₂_replicate hc))
  exact ⟨_, hrun, rfl, rfl⟩

/-! ## RECV and SEND -/

/-- A report over released lines and kept operands completes the operation. -/
theorem post_completed {s u : State} (h : SameOperands s u) (hc : u.clkPd = false) (hd : u.dataPd = false)
    (r : Report) : Completed r s (post r u) :=
  ⟨rfl, rfl, rfl, rfl, rfl, hc, hd, h.vflags, h.arg0, h.arg1, h.keylen, h.keybuf, h.cfg⟩

theorem Completed.withPorts {r : Report} {s t : State} (h : Completed r s t) (q : Option Word)
    (ins : List Input) (n : Nat) : Completed r s (t.withPorts q ins n) :=
  { h with }

/-- A run of an idle engine that accepts an operation in its first tick and is then played lines. -/
theorem run_accepted {s u t : State} {i : Input} {ins rest : List Input} {ls : List Lines}
    {op : Instr} {bs : List Byte} (hb : s.status.busy = false) (hi : s.inputs = i :: ins ++ rest)
    (hr : i.rst = false) (hd : decode i.access = .ok op) (hu : exec op s.advance = .next u)
    (hui : u.inputs = s.inputs.tail) (hp : Plays ins ls) (h : Played ls u t bs) :
    ∃ r n, run (ins.length + 1) s = .next (t.withPorts r rest n) := by
  have he : s.input = i := by simp [State.input, hi]
  have hstep := step_idle_of_ok hb (he ▸ hr) (he ▸ hd) hu
  obtain ⟨⟨r, hrun⟩, -⟩ := run_played (by rw [hui, hi]; rfl) hp h
  exact ⟨r, _, (run_succ hstep _).trans hrun⟩

/-- What is reported of a received word returned unjudged (41_link.md R109, R110). -/
theorem receiveReport_wordResult (f : BitVec 3) (w : FrameWord) :
    receiveReport (wordResult f w) =
      if rxCheck f w then { res0 := (rxData w).setWidth 16 }
      else { err := .framingViolation, res0 := 0 } := by
  unfold wordResult
  split <;> rfl

/-- Settles O45: the acceptance, and then one whole receive, whose word is reported. -/
theorem recvReturnsTheWordTheDeviceSends : Obligations.RecvReturnsTheWordTheDeviceSends := by
  intro s i ins rest ls re w wait lo hi hinv hb hin hr hd hp hlev
  have hrest := hinv.atRest hb
  have hrecv := played_recv (s := acceptedRecv re 0x02 s.advance) rfl rfl rfl rfl
    (LevelsAre.congr hlev rfl rfl)
  rw [afterRecv_unjudged (.inl rfl)] at hrecv
  obtain ⟨_, _, hrun⟩ := run_accepted hb hin hr hd (exec_recv_idle (s := s.advance) hb re) rfl hp hrecv
  rw [← receiveReport_wordResult]
  have kept : SameOperands s (recvReturns w (acceptedRecv re 0x02 s.advance)) :=
    ⟨rfl, rfl, rfl, rfl, rfl, rfl⟩
  exact ⟨_, hrun, (post_completed kept hrest.clkPd hrest.dataPd _).withPorts _ _ _, rfl⟩

/-- The inputs of two stretches of ticks, one after the other. -/
theorem Plays.append {ins js : List Input} {ls ms : List Lines} (h : Plays ins ls) (k : Plays js ms) :
    Plays (ins ++ js) (ls ++ ms) := by
  obtain ⟨rfl, hr⟩ := h
  obtain ⟨rfl, kr⟩ := k
  exact ⟨List.map_append, fun i hi => (List.mem_append.mp hi).elim (hr i) (kr i)⟩

theorem Plays.length_eq {ins : List Input} {ls : List Lines} (h : Plays ins ls) :
    ls.length = ins.length := by
  rw [← h.1, List.length_map]

/-- Settles O46: the acceptance, and then one whole send, after which nothing is left to do. -/
theorem sendCompletesAfterElevenPulses : Obligations.SendCompletesAfterElevenPulses := by
  intro s i pre mid rest ls ms re wait lo hi hinv hb hin hr hd hlen hpre hmid hclk
  have hrest := hinv.atRest hb
  have hsend := played_send (s := acceptedSend re 0x03 .link (s.arg0.setWidth 8) s.advance) (pre := ls)
    rfl rfl (hpre.length_eq.trans hlen) (ClockIs.congr hclk hrest.clkPd.symm)
  rw [afterSend_link rfl] at hsend
  obtain ⟨_, _, hrun⟩ := run_accepted hb hin hr hd (exec_send_idle (s := s.advance) hb re) rfl
    (hpre.append hmid) hsend
  rw [List.length_append] at hrun
  have kept : SameOperands s
      (sendReturns (acceptedSend re 0x03 .link (s.arg0.setWidth 8) s.advance)) :=
    ⟨rfl, rfl, rfl, rfl, rfl, rfl⟩
  exact ⟨_, hrun, (post_completed kept rfl rfl _).withPorts _ _ _, rfl, rfl⟩

/-! ## An operation as the sequence of its link calls -/

/-- The engine where a sequence of link calls may go on: idle, or busy at the entry of a call, with the
shift register of a receive empty. -/
structure AtCall (s : State) : Prop where
  busy : s.lph ≠ .idle → s.status.busy = true
  empty : s.lph = .rxLow → s.shift = 0 ∧ s.biti = 0

/-- What follows the return of a link call is again such a state. -/
theorem Sequel.atCall {s t : State} (h : Sequel s t) (hb : s.status.busy = true) (hl : s.lph = .idle) :
    AtCall t := by
  cases h with
  | stay => exact ⟨fun hn => absurd hl hn, fun hr => by simp [hl] at hr⟩
  | post r => exact ⟨fun hn => absurd rfl hn, nofun⟩
  | recv c => exact ⟨fun _ => hb, fun _ => ⟨rfl, rfl⟩⟩
  | send d c k => exact ⟨fun _ => hb, nofun⟩

/-- The lines of a sequence of link calls bring the engine to the state that the sequence says, and put its
bytes on the wire. -/
theorem played_calls {n : Nat} {ws : List FrameWord} {s : State} {ls : List Lines} (h : AtCall s)
    (hc : CallLines n ws s ls) : Played ls s (callRun n ws s).2 (callRun n ws s).1 := by
  induction n generalizing ws s ls with
  | zero =>
    cases hc
    exact .nil s
  | succ n ih =>
    unfold CallLines at hc
    unfold callRun
    cases hl : s.lph with
    | txHold =>
      have hb := h.busy (by simp [hl])
      simp only [hl] at hc ⊢
      obtain ⟨pre, mid, post_, wait, lo, hi, rfl, hpre, hmid, hpost⟩ := hc
      exact (played_send hb hl hpre hmid).append (ih ((afterSend_sequel _).atCall hb rfl) hpost)
    | rxLow =>
      have hb := h.busy (by simp [hl])
      obtain ⟨hs, hk⟩ := h.empty hl
      cases ws with
      | nil =>
        simp only [hl] at hc ⊢
        subst hc
        exact .nil s
      | cons w ws =>
        simp only [hl] at hc ⊢
        obtain ⟨mid, post_, wait, lo, hi, rfl, hmid, hpost⟩ := hc
        exact (played_recv hb hl hs hk hmid).append (ih ((afterRecv_sequel _ _).atCall hb rfl) hpost)
    | idle | rxHigh | txRtsData | txRtsRel | txLow | txHigh =>
      simp only [hl] at hc ⊢
      subst hc
      exact .nil s

/-- Settles O47: the state to which the lines of the link calls bring the engine. -/
theorem microStepsCarryOutTheLinkCalls : Obligations.MicroStepsCarryOutTheLinkCalls := by
  intro n ws s ins rest ls hb he hi hp hc
  obtain ⟨⟨_, hrun⟩, -⟩ := run_played hi hp (played_calls ⟨fun _ => hb, he⟩ hc)
  exact ⟨_, hrun, rfl, rfl⟩

/-- Settles O60: the bytes that the lines of the link calls put on the wire. -/
theorem runPutsTheBytesOfItsLinkCallsOnTheWire :
    Obligations.RunPutsTheBytesOfItsLinkCallsOnTheWire :=
  fun _ _ _ _ _ _ hb he hi hp hc => (run_played hi hp (played_calls ⟨fun _ => hb, he⟩ hc)).2

end Sys2Proof.Machine
end

section
/-! `select_closest` (42_commands.md R142) and what it selects in every conforming rate table (R141,
95_test_vectors.md E4). The scan keeps one invariant; of a table whose nearest entry is unique, the index
selected is that entry's. -/

namespace Sys2Proof.Machine

/-! ## The scan -/

/-- The entry `v` at index `best` is a nearest one among the first `n` entries of a table, and the first
such. -/
structure ClosestOfFirst (table : List Half) (q n best : Nat) (v : Half) : Prop where
  index : best < n
  entry : table[best]? = some v
  nearest : ∀ i u, i < n → table[i]? = some u → absDiff v.toNat q ≤ absDiff u.toNat q
  first : ∀ i u, i < best → table[i]? = some u → absDiff v.toNat q < absDiff u.toNat q

section
variable {table : List Half} {q n best : Nat} {v t : Half}

/-- A nearer entry is the new best one: it is strictly nearer than all before it. -/
theorem ClosestOfFirst.replace (h : ClosestOfFirst table q n best v) (ht : table[n]? = some t)
    (hlt : absDiff t.toNat q < absDiff v.toNat q) : ClosestOfFirst table q (n + 1) n t where
  index := Nat.lt_succ_self n
  entry := ht
  nearest i u hi hu := by
    rcases Nat.lt_succ_iff_lt_or_eq.mp hi with hi | rfl
    · exact hlt.le.trans (h.nearest i u hi hu)
    · rw [Option.some.inj (ht.symm.trans hu)]
  first i u hi hu := hlt.trans_le (h.nearest i u hi hu)

/-- An entry that is not nearer leaves the best one. -/
theorem ClosestOfFirst.keep (h : ClosestOfFirst table q n best v) (ht : table[n]? = some t)
    (hle : absDiff v.toNat q ≤ absDiff t.toNat q) : ClosestOfFirst table q (n + 1) best v where
  index := Nat.lt_succ_of_lt h.index
  entry := h.entry
  nearest i u hi hu := by
    rcases Nat.lt_succ_iff_lt_or_eq.mp hi with hi | rfl
    · exact h.nearest i u hi hu
    · rwa [← Option.some.inj (ht.symm.trans hu)]
  first := h.first

/-- The scan carries the best of the entries seen on to the best of the table. -/
theorem ClosestOfFirst.scan {rest : List Half} (h : ClosestOfFirst table q n best v)
    (hr : table.drop n = rest) :
    ∃ u, ClosestOfFirst table q (n + rest.length) (selectClosestFrom q rest n best v.toNat) u := by
  induction rest generalizing n best v with
  | nil => exact ⟨v, h⟩
  | cons t rest ih =>
    have ht : table[n]? = some t := by rw [← List.head?_drop, hr, List.head?_cons]
    have hr' : table.drop (n + 1) = rest := by rw [← List.tail_drop, hr, List.tail_cons]
    rw [List.length_cons, Nat.add_comm rest.length 1, ← Nat.add_assoc, selectClosestFrom]
    split
    next hlt => exact ih (h.replace ht hlt) hr'
    next hge => exact ih (h.keep ht (Nat.le_of_not_lt hge)) hr'

end

theorem selectClosest_closestOfFirst {table : List Half} (h : table ≠ []) (q : Half) :
    ∃ v, ClosestOfFirst table q.toNat table.length (selectClosest table q) v := by
  cases table with
  | nil => exact absurd rfl h
  | cons t rest =>
    have start : ClosestOfFirst (t :: rest) q.toNat 1 0 t :=
      { index := Nat.one_pos
        entry := rfl
        nearest := fun i u hi hu => by
          obtain rfl := Nat.lt_one_iff.mp hi
          rw [Option.some.inj hu]
        first := nofun }
    rw [List.length_cons, Nat.add_comm]
    exact start.scan rfl

/-- Settles O26: the invariant of the scan, once every entry has been seen. -/
theorem selectClosestIsTheLowestNearestIndex : Obligations.SelectClosestIsTheLowestNearestIndex := by
  intro table q h
  obtain ⟨v, hv⟩ := selectClosest_closestOfFirst h q
  refine ⟨v, hv.entry, fun i u hu => ⟨?_, fun hi => hv.first i u hi hu⟩⟩
  exact hv.nearest i u (List.getElem?_eq_some_iff.mp hu).1 hu

/-! ## The rate table -/

/-- An entry nearer than every other is the one selected. -/
theorem selectClosest_eq_of_nearer {table : List Half} {q v : Half} {k : Nat} (hk : table[k]? = some v)
    (h : ∀ i u, table[i]? = some u → i ≠ k → absDiff v.toNat q.toNat < absDiff u.toNat q.toNat) :
    selectClosest table q = k := by
  obtain ⟨u, hu, hle⟩ := selectClosestIsTheLowestNearestIndex table q (by rintro rfl; simp at hk)
  by_contra hne
  exact absurd (hle k v hk).1 (h _ u hu hne).not_ge

theorem strictlyDecreasing_pairwise {l : List Half} (h : Config.strictlyDecreasing l = true) :
    l.Pairwise (fun a b => a.toNat > b.toNat) := by
  rw [← List.pairwise_map, ← List.isChain_iff_pairwise]
  induction l with
  | nil => exact .nil
  | cons a l ih =>
    cases l with
    | nil => exact .singleton _
    | cons b l =>
      simp only [Config.strictlyDecreasing, Bool.and_eq_true, decide_eq_true_eq] at h
      exact .cons_cons h.1 (ih h.2)

/-- What a conforming configuration says of its rate table (30_encoding.md R69). -/
theorem rateTable_of_wf {p : Config.Params} (h : p.wf = true) :
    p.rateTable.length = 32 ∧ p.rateTable[0]? = some 300 ∧ p.rateTable[31]? = some 20
      ∧ p.rateTable.Pairwise (fun a b => a.toNat > b.toNat) := by
  simp only [Config.Params.wf, Config.Params.rateOk, Bool.and_eq_true, decide_eq_true_eq] at h
  obtain ⟨⟨-, ⟨⟨hlen, hfirst⟩, hlast⟩, hdec⟩, -⟩ := h
  exact ⟨hlen, hfirst, hlast, strictlyDecreasing_pairwise hdec⟩

/-- A later rate is a lower one. -/
theorem rate_lt_of_lt {p : Config.Params} (h : p.wf = true) {i j : Nat} {u v : Half} (hij : i < j)
    (hi : p.rateTable[i]? = some u) (hj : p.rateTable[j]? = some v) : v.toNat < u.toNat := by
  obtain ⟨-, -, -, hdec⟩ := rateTable_of_wf h
  obtain ⟨hi', rfl⟩ := List.getElem?_eq_some_iff.mp hi
  obtain ⟨hj', rfl⟩ := List.getElem?_eq_some_iff.mp hj
  exact List.pairwise_iff_getElem.mp hdec i j hi' hj' hij

/-- A request not below the highest rate selects it. -/
theorem rate_selected_of_ge {p : Config.Params} (h : p.wf = true) {q : Half} (hq : 300 ≤ q.toNat) :
    selectClosest p.rateTable q = 0 := by
  obtain ⟨-, hfirst, -, -⟩ := rateTable_of_wf h
  refine selectClosest_eq_of_nearer hfirst fun i u hu hi => ?_
  have hlt : u.toNat < 300 := rate_lt_of_lt h (Nat.pos_of_ne_zero hi) hfirst hu
  show absDiff 300 _ < _
  unfold absDiff
  omega

/-- A request not above the lowest rate selects it. -/
theorem rate_selected_of_le {p : Config.Params} (h : p.wf = true) {q : Half} (hq : q.toNat ≤ 20) :
    selectClosest p.rateTable q = 31 := by
  obtain ⟨hlen, -, hlast, -⟩ := rateTable_of_wf h
  refine selectClosest_eq_of_nearer hlast fun i u hu hi => ?_
  have hi' := (List.getElem?_eq_some_iff.mp hu).1
  have hlt : 20 < u.toNat := rate_lt_of_lt h (by omega) hu hlast
  show absDiff 20 _ < _
  unfold absDiff
  omega

/-- Settles O27: the rates by the order of the table, the delays by the scan of their four entries. -/
theorem typematicExamplesHoldForEveryRateTable : Obligations.TypematicExamplesHoldForEveryRateTable :=
  fun _ _ h => ⟨rate_selected_of_ge h, rate_selected_of_le h, by decide, by decide⟩

end Sys2Proof.Machine
end

section
/-! The keyboard commands (42_commands.md): the argument checks at acceptance (R140, R144), the sequencer
between two link calls (R131, R146), one rule per sequencer state, and each command as the sequence of its
link calls (R149). -/

namespace Sys2Proof.Machine

/-! ## Argument checks -/

/-- An operation whose argument check fails is turned away in its acceptance step (60_exceptions.md
R164). -/
theorem exec_rejected_idle {s : State} (h : s.status.busy = false) (op : CmdOp) (re : Bool) {e : ErrCode}
    (hd : opStart op (accept op.code { s with rdata := cmdRead re s })
      = post { err := e } (accept op.code { s with rdata := cmdRead re s })) :
    exec (op.instr re) s = .next (rejected re op.code e s) := by
  rw [exec_cmd_idle h, hd]
  rfl

theorem scanSetOk_iff (s : State) : scanSetOk s = true ↔ 1 ≤ s.arg0.toNat ∧ s.arg0.toNat ≤ 3 := by
  simp [scanSetOk]

theorem keylenOk_iff (s : State) : keylenOk s = true ↔ s.keylen.toNat ≤ s.cfg.keybufDepth := by
  simp [keylenOk]

section
variable {s : State}

theorem exec_kscanset_of_ok (hb : s.status.busy = false) (h : 1 ≤ s.arg0.toNat ∧ s.arg0.toNat ≤ 3)
    (re : Bool) : exec (.kscanset re) s
      = .next (acceptedSend re CmdOp.kscanset.code .sendCmd s.cfg.codeScanSet s) :=
  exec_sendFirst_idle hb .kscanset re (if_pos ((scanSetOk_iff _).mpr h))

theorem exec_kkeys_of_ok (hb : s.status.busy = false) (h : s.keylen.toNat ≤ s.cfg.keybufDepth)
    (re : Bool) :
    exec (.kkeys re) s = .next (acceptedSend re CmdOp.kkeys.code .sendCmd (selectorOne s) s) :=
  exec_sendFirst_idle hb .kkeys re (if_pos ((keylenOk_iff _).mpr h))

end

/-- Settles O34: the argument check is the range. -/
theorem kscansetAcceptsOneToThreeOnly : Obligations.KscansetAcceptsOneToThreeOnly := by
  refine fun s re hb => ⟨fun h => exec_kscanset_of_ok hb h re, fun h => ?_⟩
  have hout : ¬ (1 ≤ s.arg0.toNat ∧ s.arg0.toNat ≤ 3) := by omega
  exact exec_rejected_idle hb .kscanset re (if_neg (mt (scanSetOk_iff _).mp hout))

/-- Settles O35: the argument check is the bound; the selector is a cell of its table. -/
theorem kkeysAcceptsAListThatFits : Obligations.KkeysAcceptsAListThatFits := by
  refine fun s re hb => ⟨fun h => ?_, fun h => ?_⟩
  · rw [← selectorTable_get_eq]
    exact exec_kkeys_of_ok hb h re
  · exact exec_rejected_idle hb .kkeys re (if_neg (mt (keylenOk_iff _).mp h.not_ge))

/-! ## The acknowledgment check -/

@[simp] theorem ackCheck_ack (k : Byte) (cont : State → State) (s : State) :
    ackCheck k (.ok Config.codeAck) cont s = cont s := by
  simp [ackCheck]

theorem ackCheck_of_ne {b : Byte} (h : b ≠ Config.codeAck) (k : Byte) (cont : State → State) (s : State) :
    ackCheck k (.ok b) cont s
      = post { err := .protocolAbort, res0 := b.setWidth 16, astep := k, ackfv := false } s :=
  if_neg h

/-! ## One rule per sequencer state (42_commands.md R146) -/

section
variable {s : State}

theorem afterSend_sendCmd {op : CmdOp} (hc : s.cstate = .sendCmd) (ho : s.op = op.code) :
    afterSend s = afterFirstSend op s := by
  simp only [afterSend, hc, withOp_of_opcode ho]

theorem afterSend_sendParam {op : CmdOp} (hc : s.cstate = .sendParam) (ho : s.op = op.code) :
    afterSend s = afterParam op s := by
  simp only [afterSend, hc, withOp_of_opcode ho]

theorem afterSend_sendItem (hc : s.cstate = .sendItem) :
    afterSend s = startRecv (enter .awaitItemAck s) := by
  simp only [afterSend, hc]

theorem afterSend_sendTerm (hc : s.cstate = .sendTerm) : afterSend s = post {} s := by
  simp only [afterSend, hc]

theorem afterRecv_awaitFirstAck (hc : s.cstate = .awaitFirstAck) (r : RecvResult) :
    afterRecv r s = ackCheck 0 r (withOp afterFirstAck) s := by
  simp only [afterRecv, hc]

theorem afterRecv_awaitItemAck (hc : s.cstate = .awaitItemAck) (r : RecvResult) :
    afterRecv r s = ackCheck (s.kidx + 1) r (nextItem (s.kidx.toNat + 1)) s := by
  simp only [afterRecv, hc]
  rfl

theorem afterRecv_firstAck {op : CmdOp} (hc : s.cstate = .awaitFirstAck) (ho : s.op = op.code) :
    afterRecv (.ok Config.codeAck) s = afterFirstAck op s := by
  rw [afterRecv_awaitFirstAck hc, ackCheck_ack, withOp_of_opcode ho]

theorem afterRecv_itemAck (hc : s.cstate = .awaitItemAck) :
    afterRecv (.ok Config.codeAck) s = nextItem (s.kidx.toNat + 1) s := by
  rw [afterRecv_awaitItemAck hc, ackCheck_ack]

theorem nextItem_of_lt {j : Nat} (h : j < s.keylen.toNat) :
    nextItem j s
      = startSend (Memory.read s.keybuf j) (enter .sendItem { s with kidx := BitVec.ofNat 8 j }) :=
  if_pos h

theorem nextItem_of_ge {j : Nat} (h : s.keylen.toNat ≤ j) :
    nextItem j s = startSend s.cfg.codeEcho (enter .sendTerm s) :=
  if_neg h.not_gt

end

/-- Settles O50: both awaits are the one check, with their step. -/
theorem failedAckAbortsTheCommand : Obligations.FailedAckAbortsTheCommand := by
  refine fun s b hb => ⟨fun hc => ?_, fun hc => ?_⟩
  · exact ⟨(afterRecv_awaitFirstAck hc _).trans (ackCheck_of_ne hb _ _ _), afterRecv_awaitFirstAck hc _⟩
  · exact ⟨(afterRecv_awaitItemAck hc _).trans (ackCheck_of_ne hb _ _ _), afterRecv_awaitItemAck hc _⟩

/-- Settles O51: the rule of each sequencer state that sends, at the opcodes of its arrows. -/
theorem sequencerArrowsAfterASend : Obligations.SequencerArrowsAfterASend := by
  intro s
  refine ⟨?_, fun hc ho => ?_, fun hc ho => ?_, fun hc ho => ?_, fun hc ho => afterSend_sendCmd hc ho,
    fun hc ho => afterSend_sendCmd hc ho, fun hc ho => ?_, fun hc ho => afterSend_sendParam hc ho,
    afterSend_sendItem⟩
  · rintro (hc | hc)
    · exact afterSend_link hc
    · exact afterSend_sendTerm hc
  · rcases ho with ho | ho | ho <;> exact afterSend_sendCmd hc ho
  · rcases ho with ho | ho | ho <;> exact afterSend_sendCmd hc ho
  · rcases ho with ho | ho | ho <;> exact afterSend_sendCmd hc ho
  · rcases ho with ho | ho <;> exact afterSend_sendParam hc ho

/-- Settles O52: the rule of each await; for KKEYS the next item is in the list or the list is at its
end. -/
theorem sequencerArrowsAfterAnAck : Obligations.SequencerArrowsAfterAnAck := by
  intro s
  refine ⟨fun hc ho => afterRecv_firstAck hc ho, fun hc ho => afterRecv_firstAck hc ho,
    fun hc ho hk => ?_, fun hc ho hk => ?_, fun hc hk => ?_, fun hc hk => ?_⟩
  · exact (afterRecv_firstAck hc ho).trans (nextItem_of_ge (by simp [hk]))
  · have hpos : 0 < s.keylen.toNat := Nat.pos_of_ne_zero fun h => hk (BitVec.eq_of_toNat_eq h)
    exact (afterRecv_firstAck hc ho).trans (nextItem_of_lt hpos)
  · have hnext : BitVec.ofNat 8 (s.kidx.toNat + 1) = s.kidx + 1 := by
      rw [BitVec.ofNat_add, BitVec.ofNat_toNat, BitVec.setWidth_eq]
      rfl
    rw [← hnext]
    exact (afterRecv_itemAck hc).trans (nextItem_of_lt hk)
  · exact (afterRecv_itemAck hc).trans (nextItem_of_ge hk.ge)

end Sys2Proof.Machine
end

section
/-! The keyboard commands as sequences of their link calls (42_commands.md R149). `Returned` describes the
engine between two calls of a command, `Traffic` what a sequence of calls sends and reports; one rule for
each kind of call ties the second to `callRun`, and a command is the composition of its calls. -/

namespace Sys2Proof.Machine

/-! ## The engine between two calls, and the calls -/

/-- A link call of the operation `op`, which was issued in the state `s`, has returned in the sequencer
state `c`, with the lines released. -/
structure Returned (op : CmdOp) (c : SeqState) (s t : State) : Prop where
  operands : SameOperands s t
  clkPd : t.clkPd = false
  dataPd : t.dataPd = false
  opcode : t.op = op.code
  cstate : t.cstate = c

/-- The link calls from `u` on, at most `n` and with the words `ws` for their receives, send the bytes `bs`
and complete the operation issued in `s` with the report `r`. -/
def Traffic (s : State) (n : Nat) (ws : List FrameWord) (u : State) (bs : List Byte) (r : Report) : Prop :=
  (callRun n ws u).1 = bs ∧ Completed r s (callRun n ws u).2

section
variable {s t u : State} {n : Nat} {ws : List FrameWord} {w : FrameWord} {d : Byte} {bs : List Byte}
  {r : Report} {op : CmdOp} {c c' : SeqState}

theorem callRun_of_idle (hl : u.lph = .idle) : callRun n ws u = ([], u) := by
  cases n <;> simp [callRun, hl]

theorem Traffic.send (hl : u.lph = .txHold) (h : Traffic s n ws (afterSend (sendReturns u)) bs r) :
    Traffic s (n + 1) ws u (u.txbyte :: bs) r := by
  unfold Traffic callRun
  simp only [hl]
  exact ⟨congrArg _ h.1, h.2⟩

theorem Traffic.recv (hl : u.lph = .rxLow)
    (h : Traffic s n ws (afterRecv (wordResult u.vflags w) (recvReturns w u)) bs r) :
    Traffic s (n + 1) (w :: ws) u bs r := by
  unfold Traffic callRun
  simp only [hl]
  exact h

/-- A report ends the calls. -/
theorem Returned.post (h : Returned op c s t) (r : Report) : Traffic s n ws (post r t) [] r := by
  unfold Traffic
  rw [callRun_of_idle rfl]
  exact ⟨rfl, post_completed h.operands h.clkPd h.dataPd r⟩

/-- The first send of a command. -/
theorem traffic_accepted (re : Bool)
    (next : ∀ t, Returned op .sendCmd s t → Traffic s n ws (afterSend t) bs r) :
    Traffic s (n + 1) ws (acceptedSend re op.code .sendCmd d s) (d :: bs) r :=
  .send rfl (next _ ⟨{ SameOperands.refl s with }, rfl, rfl, rfl, rfl⟩)

/-- A further send; it leaves the list index. -/
theorem Returned.thenSend (h : Returned op c s t)
    (next : ∀ u, Returned op c' s u → u.kidx = t.kidx → Traffic s n ws (afterSend u) bs r) :
    Traffic s (n + 1) ws (startSend d (enter c' t)) (d :: bs) r :=
  .send rfl (next _ ⟨{ h.operands with }, rfl, rfl, h.opcode, rfl⟩ rfl)

/-- A receive, under the flags with which the command was issued; it leaves the list index. -/
theorem Returned.thenRecv (h : Returned op c s t)
    (next : ∀ u, Returned op c' s u → u.kidx = t.kidx →
      Traffic s n ws (afterRecv (wordResult s.vflags w) u) bs r) :
    Traffic s (n + 1) (w :: ws) (startRecv (enter c' t)) bs r := by
  have hnext := next (recvReturns w (startRecv (enter c' t)))
    ⟨{ h.operands with }, h.clkPd, h.dataPd, h.opcode, rfl⟩ rfl
  rw [← h.operands.vflags] at hnext
  exact .recv rfl hnext

/-! ## The commands' bytes depend on kept operands only -/

theorem SameOperands.scanSetByte (h : SameOperands s t) : scanSetByte t = s.arg0.setWidth 8 := by
  rw [Machine.scanSetByte, h.arg0]

theorem SameOperands.ledByte (h : SameOperands s t) : ledByte t = ledByte s := by
  rw [Machine.ledByte, Machine.ledByte, h.arg0, h.cfg]

theorem SameOperands.rateIndex (h : SameOperands s t) : rateIndex t = rateIndex s := by
  rw [Machine.rateIndex, Machine.rateIndex, h.arg0, h.cfg]

theorem SameOperands.delayIndex (h : SameOperands s t) : delayIndex t = delayIndex s := by
  rw [Machine.delayIndex, Machine.delayIndex, h.arg1]

theorem SameOperands.chosenRate (h : SameOperands s t) : chosenRate t = chosenRate s := by
  rw [Machine.chosenRate, Machine.chosenRate, h.rateIndex, h.cfg]

theorem SameOperands.chosenDelay (h : SameOperands s t) : chosenDelay t = chosenDelay s := by
  rw [Machine.chosenDelay, Machine.chosenDelay, h.delayIndex]

/-- The operand of LED_PACK is the number made of the three low bits (30_encoding.md R70). -/
theorem ledByte_eq (s : State) : ledByte s = s.cfg.ledPack[(s.arg0 &&& 7).toNat]?.getD 0 := by
  have hmask : (s.arg0 &&& 7).toNat = s.arg0.toNat % 8 := Nat.and_two_pow_sub_one_eq_mod _ 3
  rw [ledByte, hmask, BitVec.extractLsb'_toNat, Nat.shiftRight_zero]

/-! ## Commands without an acknowledgment -/

/-- The state of an accepted command that starts with the send of `d`, whatever its operands. -/
theorem accepted_of_exec (hb : s.status.busy = false) (op : CmdOp) {re : Bool}
    (hd : opStart op (accept op.code { s with rdata := cmdRead re s })
      = sendFirst d (accept op.code { s with rdata := cmdRead re s }))
    (hu : exec (op.instr re) s = .next u) : u = acceptedSend re op.code .sendCmd d s :=
  (Host.Outcome.next.inj ((exec_sendFirst_idle hb op re hd).symm.trans hu)).symm

/-- A command that reports after its first byte. -/
theorem traffic_fireAndForget (re : Bool) (hop : ∀ t, afterFirstSend op t = post {} t) :
    Traffic s (n + 1) ws (acceptedSend re op.code .sendCmd d s) [d] {} := by
  refine traffic_accepted re fun t h => ?_
  rw [afterSend_sendCmd h.cstate h.opcode, hop]
  exact h.post {}

/-- A command that returns the byte that comes after its first byte (42_commands.md R148). -/
theorem traffic_response (re : Bool)
    (hop : ∀ t, afterFirstSend op t = startRecv (enter .awaitResp t)) :
    Traffic s (n + 2) (w :: ws) (acceptedSend re op.code .sendCmd d s) [d]
      (receiveReport (wordResult s.vflags w)) := by
  refine traffic_accepted re fun t h => ?_
  rw [afterSend_sendCmd h.cstate h.opcode, hop]
  refine h.thenRecv fun t h _ => ?_
  rw [afterRecv_unjudged (.inr h.cstate)]
  exact h.post _

/-- A command that sends a parameter byte back to back with its first byte, and then reports. -/
theorem traffic_twoBytes (re : Bool) {b : Byte}
    (hfirst : ∀ t, SameOperands s t → afterFirstSend op t = startSend b (enter .sendParam t))
    (hparam : ∀ t, SameOperands s t → afterParam op t = post r t) :
    Traffic s (n + 2) ws (acceptedSend re op.code .sendCmd d s) [d, b] r := by
  refine traffic_accepted re fun t h => ?_
  rw [afterSend_sendCmd h.cstate h.opcode, hfirst t h.operands]
  refine h.thenSend fun t h _ => ?_
  rw [afterSend_sendParam h.cstate h.opcode, hparam t h.operands]
  exact h.post r

end

/-- Settles O53: one send, and the report. -/
theorem fireAndForgetCommandsSendOneByte : Obligations.FireAndForgetCommandsSendOneByte := by
  intro s u re ws n _ hb hn
  obtain ⟨n, rfl⟩ := Nat.exists_eq_add_of_le' hn
  refine ⟨fun hu => ?_, fun hu => ?_, fun hu => ?_⟩
  · rw [accepted_of_exec hb .kenable rfl hu]
    exact traffic_fireAndForget re fun _ => rfl
  · rw [accepted_of_exec hb .kdisable rfl hu]
    exact traffic_fireAndForget re fun _ => rfl
  · rw [accepted_of_exec hb .kdefault rfl hu]
    exact traffic_fireAndForget re fun _ => rfl

/-- Settles O54: one send, one receive, and its report. -/
theorem responseCommandsReturnOneByte : Obligations.ResponseCommandsReturnOneByte := by
  intro s u re w ws n r _ hb hn hr
  obtain ⟨n, rfl⟩ := Nat.exists_eq_add_of_le' hn
  rw [← receiveReport_wordResult] at hr
  subst hr
  refine ⟨fun hu => ?_, fun hu => ?_, fun hu => ?_⟩
  · rw [accepted_of_exec hb .kreset rfl hu]
    exact traffic_response re fun _ => rfl
  · rw [accepted_of_exec hb .kresend rfl hu]
    exact traffic_response re fun _ => rfl
  · rw [accepted_of_exec hb .kecho rfl hu]
    exact traffic_response re fun _ => rfl

/-- Settles O55: two sends, the second byte and KRATE's report being those of the operands as issued. -/
theorem ledsAndRateSendTwoBytesWithoutWaiting : Obligations.LedsAndRateSendTwoBytesWithoutWaiting := by
  intro s u re ws n _ hb hn
  obtain ⟨n, rfl⟩ := Nat.exists_eq_add_of_le' hn
  refine ⟨fun hu => ?_, fun hu => ?_⟩
  · rw [accepted_of_exec hb .kleds rfl hu, ← ledByte_eq]
    exact traffic_twoBytes re (fun t h => by rw [← h.ledByte]; rfl) fun _ _ => rfl
  · rw [accepted_of_exec hb .krate rfl hu]
    exact traffic_twoBytes re
      (fun t h => by rw [afterFirstSend, h.rateIndex, h.delayIndex]; rfl)
      (fun t h => by rw [afterParam, h.chosenRate, h.chosenDelay]; rfl)

/-! ## Commands with an acknowledgment -/

section
variable {s t u : State} {n : Nat} {ws : List FrameWord} {w : FrameWord} {d : Byte} {bs : List Byte}
  {r : Report} {op : CmdOp} {c : SeqState}

theorem wordResult_of_isAck (h : IsAck s w) : wordResult s.vflags w = .ok Config.codeAck := by
  rw [wordResult, if_pos h.1, h.2]

/-- Anything but an acknowledgment aborts, with the step of its await (42_commands.md R131). -/
theorem ackCheck_of_not_isAck (h : ¬ IsAck s w) (k : Byte) (cont : State → State) (t : State) :
    ackCheck k (wordResult s.vflags w) cont t = post (abortReport s.vflags k w) t := by
  unfold wordResult abortReport
  split
  next hok => exact ackCheck_of_ne (fun hb => h ⟨hok, hb⟩) k cont t
  next => rfl

/-- The first ACK continues the command. -/
theorem Returned.firstAck (h : Returned op .awaitFirstAck s t) (hw : IsAck s w) :
    afterRecv (wordResult s.vflags w) t = afterFirstAck op t := by
  rw [wordResult_of_isAck hw, afterRecv_firstAck h.cstate h.opcode]

/-- A failed first ACK aborts the command at step 0. -/
theorem Returned.failedFirstAck (h : Returned op .awaitFirstAck s t) (hw : ¬ IsAck s w) :
    Traffic s n ws (afterRecv (wordResult s.vflags w) t) [] (abortReport s.vflags 0 w) := by
  rw [afterRecv_awaitFirstAck h.cstate, ackCheck_of_not_isAck hw]
  exact h.post _

/-- A command that awaits an ACK after its first byte. -/
theorem traffic_awaitFirstAck (re : Bool)
    (hop : ∀ t, afterFirstSend op t = startRecv (enter .awaitFirstAck t))
    (next : ∀ t, Returned op .awaitFirstAck s t →
      Traffic s n ws (afterRecv (wordResult s.vflags w) t) bs r) :
    Traffic s (n + 2) (w :: ws) (acceptedSend re op.code .sendCmd d s) (d :: bs) r := by
  refine traffic_accepted re fun t h => ?_
  rw [afterSend_sendCmd h.cstate h.opcode, hop]
  exact h.thenRecv fun u hu _ => next u hu

/-- The terminator is the last byte. -/
theorem Returned.thenTerminator (h : Returned op c s t) :
    Traffic s (n + 1) ws (startSend t.cfg.codeEcho (enter .sendTerm t)) [s.cfg.codeEcho] {} := by
  rw [h.operands.cfg]
  refine h.thenSend fun t h _ => ?_
  rw [afterSend_sendTerm h.cstate]
  exact h.post {}

end

/-- Settles O56: after an ACK one more send, after anything else the abort. -/
theorem kscansetSendsItsParameterOnlyAfterAnAck :
    Obligations.KscansetSendsItsParameterOnlyAfterAnAck := by
  intro s u re w ws n _ hb h1 h3 hn hu
  obtain ⟨n, rfl⟩ := Nat.exists_eq_add_of_le' hn
  obtain rfl := Host.Outcome.next.inj ((exec_kscanset_of_ok hb ⟨h1, h3⟩ re).symm.trans hu)
  refine ⟨fun hw => traffic_awaitFirstAck re (fun _ => rfl) fun t h => ?_,
    fun hw => traffic_awaitFirstAck re (fun _ => rfl) fun t h => h.failedFirstAck hw⟩
  rw [h.firstAck hw, afterFirstAck, h.operands.scanSetByte]
  refine h.thenSend fun t h _ => ?_
  rw [afterSend_sendParam h.cstate h.opcode]
  exact h.post {}

/-- Settles O57: after an ACK the terminator, after anything else the abort. -/
theorem kallkeysSendsSelectorThenTerminator : Obligations.KallkeysSendsSelectorThenTerminator := by
  intro s u re w ws n sel _ hb hn hu hsel
  obtain ⟨n, rfl⟩ := Nat.exists_eq_add_of_le' hn
  rw [← selectorTable_get_eq] at hsel
  subst hsel
  rw [accepted_of_exec hb .kallkeys rfl hu]
  refine ⟨fun hw => traffic_awaitFirstAck re (fun _ => rfl) fun t h => ?_,
    fun hw => traffic_awaitFirstAck re (fun _ => rfl) fun t h => h.failedFirstAck hw⟩
  rw [h.firstAck hw]
  exact h.thenTerminator

/-! ## The list of KKEYS (42_commands.md R144) -/

section
variable {s t : State} {n j : Nat} {ws acks : List FrameWord} {w : FrameWord} {bs : List Byte}
  {r : Report} {c : SeqState}

/-- Item `j` is sent and its ACK awaited, the list index being `j`. -/
theorem Returned.thenItem (h : Returned .kkeys c s t) (hj : j < s.keylen.toNat)
    (next : ∀ u, Returned .kkeys .awaitItemAck s u → u.kidx = BitVec.ofNat 8 j →
      Traffic s n ws (afterRecv (wordResult s.vflags w) u) bs r) :
    Traffic s (n + 2) (w :: ws) (nextItem j t) (Memory.read s.keybuf j :: bs) r := by
  have indexed : Returned .kkeys c s { t with kidx := BitVec.ofNat 8 j } :=
    { h with operands := { h.operands with } }
  rw [← h.operands.keybuf, nextItem_of_lt (by rwa [h.operands.keylen])]
  refine indexed.thenSend fun u hu hk => ?_
  rw [afterSend_sendItem hu.cstate]
  exact hu.thenRecv fun v hv hk' => next v hv (hk'.trans hk)

/-- Items from `j` on, each acknowledged, bring the command to the item after them. -/
theorem Returned.thenItems (h : Returned .kkeys c s t) (hacks : ∀ a ∈ acks, IsAck s a)
    (hfit : j + acks.length ≤ s.keylen.toNat)
    (next : ∀ c u, Returned .kkeys c s u → Traffic s n ws (nextItem (j + acks.length) u) bs r) :
    Traffic s (n + 2 * acks.length) (acks ++ ws) (nextItem j t)
      ((List.range' j acks.length).map (Memory.read s.keybuf) ++ bs) r := by
  induction acks generalizing j c t with
  | nil => exact next c t h
  | cons a acks ih =>
    obtain ⟨ha, hacks⟩ := List.forall_mem_cons.mp hacks
    rw [List.length_cons] at hfit next
    refine h.thenItem (by omega) fun u hu hk => ?_
    have hidx : u.kidx.toNat = j := by
      rw [hk, BitVec.toNat_ofNat, Nat.mod_eq_of_lt (by omega)]
    rw [wordResult_of_isAck ha, afterRecv_itemAck hu.cstate, hidx]
    refine ih hu hacks (by omega) fun c v hv => ?_
    rw [Nat.add_right_comm]
    exact next c v hv

/-- After the list comes the terminator. -/
theorem Returned.afterList (h : Returned .kkeys c s t) (hj : s.keylen.toNat ≤ j) :
    Traffic s (n + 1) ws (nextItem j t) [s.cfg.codeEcho] {} := by
  rw [nextItem_of_ge (by rwa [h.operands.keylen])]
  exact h.thenTerminator

/-- An item whose ACK fails is the last byte; the step is one more than its index. -/
theorem Returned.failedItem (h : Returned .kkeys c s t) (hj : j < s.keylen.toNat) (hw : ¬ IsAck s w) :
    Traffic s (n + 2) (w :: ws) (nextItem j t) [Memory.read s.keybuf j]
      (abortReport s.vflags (BitVec.ofNat 8 (j + 1)) w) := by
  refine h.thenItem hj fun u hu hk => ?_
  have hstep : u.kidx + 1 = BitVec.ofNat 8 (j + 1) := by rw [hk, BitVec.ofNat_add]; rfl
  rw [afterRecv_awaitItemAck hu.cstate, ackCheck_of_not_isAck hw, hstep]
  exact hu.post _

theorem Memory.map_read_range' {m : Memory} {k : Nat} (h : k ≤ m.length) :
    (List.range' 0 k).map m.read = m.take k := by
  refine List.ext_getElem (by simp [h]) fun i hi hi' => ?_
  rw [List.length_take] at hi'
  simp [Memory.read_eq_getElem (m := m) (j := i) (by omega)]

/-- KKEYS whose selector is acknowledged goes on with its list. -/
theorem traffic_kkeys_acked (re : Bool) (hw : IsAck s w)
    (next : ∀ u, Returned .kkeys .awaitFirstAck s u → Traffic s n ws (nextItem 0 u) bs r) :
    Traffic s (n + 2) (w :: ws) (acceptedSend re CmdOp.kkeys.code .sendCmd (selectorOne s) s)
      (selectorOne s :: bs) r := by
  refine traffic_awaitFirstAck re (fun _ => rfl) fun u hu => ?_
  rw [hu.firstAck hw]
  exact next u hu

end

/-- Settles O58: the selector, the items, each with its ACK, and the terminator. -/
theorem kkeysSendsSelectorListTerminator : Obligations.KkeysSendsSelectorListTerminator := by
  intro s u re acks ws n hinv hb hfit hu hlen hacks hn
  obtain rfl := Host.Outcome.next.inj ((exec_kkeys_of_ok hb hfit re).symm.trans hu)
  obtain ⟨a, acks, rfl⟩ := List.exists_cons_of_length_eq_add_one hlen
  obtain ⟨ha, hacks⟩ := List.forall_mem_cons.mp hacks
  have hlen : acks.length = s.keylen.toNat := Nat.succ.inj hlen
  obtain ⟨m, rfl⟩ : ∃ m, n = m + 1 + 2 * acks.length + 2 :=
    ⟨n - (3 + 2 * s.keylen.toNat), by omega⟩
  rw [← hlen, ← Memory.map_read_range' (by rw [hinv.keybuf]; omega)]
  refine traffic_kkeys_acked re ha fun u hu => ?_
  exact hu.thenItems hacks (by omega) fun c v hv => hv.afterList (by omega)

/-- Settles O59: the ACK that fails is the selector's, or that of the item after the acknowledged ones. -/
theorem kkeysAbortsAtTheFirstFailedAck : Obligations.KkeysAbortsAtTheFirstFailedAck := by
  intro s u re acks ws w n hinv hb hfit hu hlen hacks hw hn
  obtain rfl := Host.Outcome.next.inj ((exec_kkeys_of_ok hb hfit re).symm.trans hu)
  rw [← Memory.map_read_range' (by rw [hinv.keybuf]; omega)]
  cases acks with
  | nil =>
    obtain ⟨m, rfl⟩ := Nat.exists_eq_add_of_le' hn
    exact traffic_awaitFirstAck re (fun _ => rfl) fun u hu => hu.failedFirstAck hw
  | cons a acks =>
    obtain ⟨ha, hacks⟩ := List.forall_mem_cons.mp hacks
    rw [List.length_cons] at hlen hn ⊢
    obtain ⟨m, rfl⟩ : ∃ m, n = m + 2 + 2 * acks.length + 2 :=
      ⟨n - (2 + 2 * (acks.length + 1)), by omega⟩
    rw [List.range'_1_concat, List.map_append, Nat.zero_add]
    refine traffic_kkeys_acked re ha fun u hu => ?_
    refine hu.thenItems hacks (by omega) fun c v hv => ?_
    rw [Nat.zero_add]
    exact hv.failedItem (by omega) hw

end Sys2Proof.Machine
end

section
/-! Exceptions (60_exceptions.md): no access stops the machine (R161, R167, R169), and a reserved opcode is
turned away in its acceptance step (R165). -/

namespace Sys2Proof.Machine

/-- Settles O7: a step is a reset, or an access and a micro-step, and each of these is a next state. -/
theorem everyStepAnswersANextState : Obligations.EveryStepAnswersANextState :=
  fun s => ⟨_, step_eq s⟩

/-! ## Reserved opcodes -/

/-- A write of `CMD` whose opcode names no operation is answered by name (30_encoding.md R64(a)). -/
theorem decode_make_of_reserved {v : Word} (h : CmdOp.ofCode? (v.setWidth 8) = none) (re : Bool) :
    decode (Access.make true re idxCmd v) = .error (.illegalOpcode re (v.setWidth 8)) := by
  simp [decode, h]

/-- An idle engine turns a reserved opcode away as it does a failed argument check. -/
theorem otherAccess_illegalOpcode_idle {s : State} (h : s.status.busy = false) (re : Bool) (opc : Byte) :
    otherAccess (.illegalOpcode re opc) s = rejected re opc .illegalOperation s := by
  simp only [otherAccess, issue_eq, h]
  rfl

/-- Settles O20: the reserved opcodes are those that name no operation; the rejection leaves an idle engine
in the idle link phase and sequencer state it was in. -/
theorem reservedOpcodeIsIllegalOperation : Obligations.ReservedOpcodeIsIllegalOperation := by
  rintro s re v _ hb hl hc hr ha rfl hres
  have hd : decode s.input.access = .error (.illegalOpcode re (v.setWidth 8)) :=
    ha ▸ decode_make_of_reserved (CmdOp.ofCode?_eq_none.mpr hres) re
  rw [step_idle hb hr, accessEffect_of_error hd, otherAccess_illegalOpcode_idle (s := s.advance) hb,
    rejected, ← hl, ← hc]
  rfl

end Sys2Proof.Machine
end

section
/-! Reset (70_reset_and_hazards.md R180, R181): a tick with `rst` is the reset state, over whatever stood
before. -/

namespace Sys2Proof.Machine

/-- A reset tick looks neither at the engine nor at the access (70_reset_and_hazards.md R180). -/
theorem step_reset {s : State} (hr : s.input.rst = true) :
    step s = .next (State.resetWith s.cfg s.inputs.tail (s.ticks + 1)) := by
  rw [step_eq, if_pos hr]
  rfl

/-- Settles O8: a reset tick ends in the reset state, whose every register is fixed and whose drawn key
buffer has the length the parameters give. -/
theorem resetTickRestoresEveryResetValue : Obligations.ResetTickRestoresEveryResetValue := by
  intro s hr
  have hkeybuf := resetWith_wf s.cfg s.inputs.tail (s.ticks + 1)
  exact ⟨_, step_reset hr, rfl, rfl, rfl, toWord_clear, rfl, rfl, rfl, rfl, rfl, rfl, rfl, rfl, rfl, rfl,
    rfl, rfl, rfl, rfl, rfl, hkeybuf, rfl, rfl⟩

end Sys2Proof.Machine
end

section
/-! Access words as the spec's programs write them out (95_test_vectors.md section 3). Each is an access
made of its fields (30_encoding.md R60), and the decoder answers by the fields. -/

namespace Sys2Proof.Machine

/-- A read of a register other than `VFLAGS` is answered by its number (20_memory.md R45). -/
theorem decode_make_read {i : BitVec 8} (hv : i ≠ idxVflags) (v : Word) :
    decode (Access.make false true i v) = .error (.readReg i) := by
  simp [decode, hv]

/-- A write of a register other than `CMD` and `VFLAGS` is answered with its number and its word
(20_memory.md R41, R45). -/
theorem decode_make_write {i : BitVec 8} (hc : i ≠ idxCmd) (hv : i ≠ idxVflags) (re : Bool) (v : Word) :
    decode (Access.make true re i v) = .error (.writeReg re i v) := by
  simp [decode, hc, hv]

/-- Settles O3: the words of operations are their encodings; opcode 0x1B is reserved; the last two words
are a read of `STATUS` and a write of `KEYBUF[0]`. -/
theorem decodeOfWrittenWords : Obligations.DecodeOfWrittenWords := by
  have hreserved : CmdOp.ofCode? 0x1B = none := CmdOp.ofCode?_eq_none.mpr (by decide)
  exact ⟨decode_encodeCmd false .init, decode_encodeCmd false .recv, decode_encodeCmd false .send,
    Laws.RoundTrip.setflags false true true false, decode_encodeCmd false .kecho,
    decode_encodeCmd false .kscanset, decode_encodeCmd false .krate, decode_encodeCmd false .kkeys,
    decode_make_of_reserved (v := 0x1B) hreserved false,
    decode_make_read (i := 1) (by decide) 0,
    decode_make_write (i := 64) (by decide) (by decide) false 0x1C⟩

end Sys2Proof.Machine
end
